-- ==== Sys2Proof/Word.lean ====
section
/-! DEFINITION. The word types of the frame core (00_scope.md R12, R13). -/

namespace Sys2Proof

/-- A byte is an 8-bit value (00_scope.md R13). -/
abbrev Byte := BitVec 8

/-- A 16-bit field: protocol_id, fragment_id, offset_field (30_encoding.md R90). -/
abbrev Half := BitVec 16

/-- A 32-bit register value on the host bus, or a 32-bit field (10_state.md, 43_host_access.md R200). -/
abbrev Word := BitVec 32

end Sys2Proof
end

