-- ==== Sys2Proof/Config.lean ====
section
/-! DEFINITION. What one instance of the block fixes at design time (00_scope.md section 4), and the
values the spec leaves open, which no proof can see. -/

namespace Sys2Proof

/-- HEADER_SIZE (00_scope.md R7). -/
def headerSize : Nat := 51

/-- ADDR_BYTES (00_scope.md section 4). -/
def addrBytes : Nat := 18

/-- The size of the TXBUF and RXBUF register windows, which bounds MAX_FRAME_SIZE (00_scope.md R9). -/
def windowBytes : Nat := 4096

/-- The number of host memory addresses (20_memory.md R70): byte addresses of 32 bits. -/
def hostSpace : Nat := 2 ^ 32

/-- WIRE_ORDER: the byte order of the header's 16-bit and 32-bit fields (00_scope.md R11). -/
inductive WireOrder where
  | le
  | be
  deriving DecidableEq, Repr

/-- The design-time parameters with the bounds of 00_scope.md R8 and R9. A value outside the bounds
cannot be built, which is the treatment `refuse` of 93_implementation_defined.md U13. -/
structure Config where
  /-- MAX_FRAME_SIZE (R9). -/
  maxFrame : Nat
  /-- BLOCK_SIZE (R8). -/
  blockSize : Nat
  /-- WIRE_ORDER (R11). -/
  wireOrder : WireOrder
  block_pos : 1 ≤ blockSize
  frame_lower : headerSize + blockSize ≤ maxFrame
  frame_upper : maxFrame ≤ windowBytes
  deriving DecidableEq, Repr

/-- CFG-REF: MAX_FRAME_SIZE = 950, BLOCK_SIZE = 4, WIRE_ORDER = LE (00_scope.md section 4). -/
def Config.ref : Config := ⟨950, 4, .le, by decide, by decide, by decide⟩

/-- CFG-SMALL: MAX_FRAME_SIZE = 60, the second parameter set of the test vectors (95_test_vectors.md section 0). -/
def Config.small : Config := ⟨60, 4, .le, by decide, by decide, by decide⟩

/-- The free draws of 93_implementation_defined.md U1 to U6: the n-th value the block or its
surroundings draw. It has no body, so that a claim holds whatever the draws are. -/
opaque Config.freeWord : Nat → Word

/-- The free draws of the host's own reads while a command runs (43_host_access.md R201, 20_memory.md R80),
counted apart from the others, so that such a read leaves what the command reads as it is. -/
opaque Config.busyWord : Nat → Word

/-- What host memory holds at an address that nothing in the model has stored to. Host memory is the
host's (20_memory.md R71) and the spec gives it no contents, so this has no body either. -/
opaque Config.hostByte : Nat → Byte

/-- BLOCK_BASE, the open platform parameter D45 (20_memory.md R77). -/
opaque Config.blockBase : Nat

end Sys2Proof
end

