-- ==== Sys2Proof/Syntax.lean ====
section
/-! DEFINITION. The instruction set: the ten commands and the two host bus transactions
(00_scope.md R3, 30_encoding.md R101 and R102). -/

namespace Sys2Proof

/-- The ten commands of 30_encoding.md R101. -/
inductive Cmd where
  | encode
  | decode
  | fragStart
  | fragNext
  | xmit
  | send
  | rxInit
  | recv
  | rxProcess
  | rxStep
  deriving DecidableEq, Repr

/-- One constructor per row of the opcode table. A command stands for the write of its word to CMD
(30_encoding.md R100). `regRead` has no data: the data lane of a read is what the read returns (R102). -/
inductive Instr where
  | encode
  | decode
  | fragStart
  | fragNext
  | xmit
  | send
  | rxInit
  | recv
  | rxProcess
  | rxStep
  | regRead (index : BitVec 12)
  | regWrite (index : BitVec 12) (data : Word)
  deriving DecidableEq, Repr

/-- The instruction that writes a command's word to CMD. -/
def Instr.ofCmd : Cmd → Instr
  | .encode => .encode
  | .decode => .decode
  | .fragStart => .fragStart
  | .fragNext => .fragNext
  | .xmit => .xmit
  | .send => .send
  | .rxInit => .rxInit
  | .recv => .recv
  | .rxProcess => .rxProcess
  | .rxStep => .rxStep

end Sys2Proof
end

