-- ==== Sys2Proof/WellFormed.lean ====
section
/-! DEFINITION. The checks on terms that come from outside: design parameters (00_scope.md R8, R9) and
host bus transaction records (30_encoding.md R102). An `Instr` carries its widths in its types, so every
`Instr` is well-formed. -/

namespace Sys2Proof

/-- "A model built for a value outside the bounds is refused" (00_scope.md R9): the parameters as a
configuration, or none. -/
def Config.build (maxFrame blockSize : Nat) (order : WireOrder) : Option Config :=
  if h1 : 1 ≤ blockSize then
    if h2 : headerSize + blockSize ≤ maxFrame then
      if h3 : maxFrame ≤ windowBytes then some ⟨maxFrame, blockSize, order, h1, h2, h3⟩ else none
    else none
  else none

/-- A host bus transaction as a record of numbers: the record dir, index, data of 30_encoding.md R102. -/
structure Transaction where
  dir : Nat
  index : Nat
  data : Nat
  deriving DecidableEq, Repr

/-- The widths of R102: dir is one bit, index 12 bits, data 32 bits. -/
def Transaction.wf (t : Transaction) : Bool :=
  decide (t.dir ≤ 1) && decide (t.index < 2 ^ 12) && decide (t.data < 2 ^ 32)

/-- The instruction of a well-formed record. -/
def Transaction.toInstr (t : Transaction) : Option Instr :=
  if t.wf then
    if t.dir = 1 then some (.regWrite (BitVec.ofNat 12 t.index) (BitVec.ofNat 32 t.data))
    else some (.regRead (BitVec.ofNat 12 t.index))
  else none

/-- Every instruction is well-formed: its index has 12 bits and its data 32 by their types. -/
def Instr.wf : Instr → Bool
  | .encode => true
  | .decode => true
  | .fragStart => true
  | .fragNext => true
  | .xmit => true
  | .send => true
  | .rxInit => true
  | .recv => true
  | .rxProcess => true
  | .rxStep => true
  | .regRead _ => true
  | .regWrite _ _ => true

end Sys2Proof
end

