-- ==== Sys2Proof/Decode.lean ====
section
/-! DEFINITION. From bytes to instructions and back (30_encoding.md section 2). Four bytes are a word
written to CMD; six bytes are a 45-bit host bus transaction with three zero bits above it. Both lie least
significant byte first (assumption log 12). -/

namespace Sys2Proof

/-- The n low bytes of v, least significant first (30_encoding.md R91, LE). -/
def leBytes : Nat → Nat → List Byte
  | 0, _ => []
  | n + 1, v => BitVec.ofNat 8 v :: leBytes n (v / 256)

/-- The number whose bytes, least significant first, are s (30_encoding.md R91, LE). -/
def leNat : List Byte → Nat
  | [] => 0
  | b :: s => b.toNat + 256 * leNat s

/-- The opcode map of 30_encoding.md R101. -/
def Cmd.opcode : Cmd → Byte
  | .encode => 0x01
  | .decode => 0x02
  | .fragStart => 0x10
  | .fragNext => 0x11
  | .xmit => 0x12
  | .send => 0x13
  | .rxInit => 0x20
  | .recv => 0x21
  | .rxProcess => 0x22
  | .rxStep => 0x23

/-- "The CMD word for mnemonic X is zext_32(OPCODE of X)" (30_encoding.md R101). -/
def Cmd.word (c : Cmd) : Word := c.opcode.setWidth 32

/-- The ten commands. -/
def Cmd.all : List Cmd :=
  [.encode, .decode, .fragStart, .fragNext, .xmit, .send, .rxInit, .recv, .rxProcess, .rxStep]

/-- The command a word written to CMD selects; none for an illegal command (30_encoding.md R103). -/
def commandOf (w : Word) : Option Cmd :=
  Cmd.all.find? (fun c => c.word == w)

/-- Why a byte string is no instruction. -/
inductive DecodeError where
  /-- A CMD word that is not one of the ten (30_encoding.md R103): the block answers it with ILLEGAL_COMMAND. -/
  | illegalCommand (word : Word)
  /-- Six bytes with a nonzero bit above bit 44 (30_encoding.md R102 has 45 bits). -/
  | bitsAboveTransaction
  /-- Neither a 4-byte command word nor a 6-byte transaction. -/
  | notATransaction
  deriving DecidableEq, Repr

/-- The 45-bit pattern of 30_encoding.md R102: bit 44 dir, bits [43:32] index, bits [31:0] data. The data
bits of a read are not looked at: the opcode table's mask leaves them out. -/
def decodeTransaction (t : BitVec 45) : Instr :=
  if t.getLsbD 44 then .regWrite (t.extractLsb' 32 12) (t.extractLsb' 0 32)
  else .regRead (t.extractLsb' 32 12)

/-- Decoding is total on any bytes. -/
def decode (bytes : List Byte) : Except DecodeError Instr :=
  if bytes.length = 4 then
    match commandOf (BitVec.ofNat 32 (leNat bytes)) with
    | some c => .ok (Instr.ofCmd c)
    | none => .error (.illegalCommand (BitVec.ofNat 32 (leNat bytes)))
  else if bytes.length = 6 then
    if leNat bytes < 2 ^ 45 then .ok (decodeTransaction (BitVec.ofNat 45 (leNat bytes)))
    else .error .bitsAboveTransaction
  else .error .notATransaction

/-- The 45-bit pattern of a transaction: dir, index, data from the high side (30_encoding.md R102). -/
def transactionBits (dir : BitVec 1) (index : BitVec 12) (data : Word) : BitVec 45 :=
  dir ++ index ++ data

/-- The bytes of an instruction, written from the tables of 30_encoding.md R101 and R102. -/
def encode : Instr → List Byte
  | .encode => leBytes 4 Cmd.encode.word.toNat
  | .decode => leBytes 4 Cmd.decode.word.toNat
  | .fragStart => leBytes 4 Cmd.fragStart.word.toNat
  | .fragNext => leBytes 4 Cmd.fragNext.word.toNat
  | .xmit => leBytes 4 Cmd.xmit.word.toNat
  | .send => leBytes 4 Cmd.send.word.toNat
  | .rxInit => leBytes 4 Cmd.rxInit.word.toNat
  | .recv => leBytes 4 Cmd.recv.word.toNat
  | .rxProcess => leBytes 4 Cmd.rxProcess.word.toNat
  | .rxStep => leBytes 4 Cmd.rxStep.word.toNat
  | .regRead index => leBytes 6 (transactionBits 0#1 index 0#32).toNat
  | .regWrite index data => leBytes 6 (transactionBits 1#1 index data).toNat

/-- The bytes of an opcode-table row's bits: a row of at most 32 bits is a command word, a wider one a
host bus transaction. -/
def tableBytes (nbits w : Nat) : List Byte :=
  if nbits ≤ 32 then leBytes 4 w else leBytes 6 w

/-- What the decoder reads from an instruction whose bits, numbered as the opcode table numbers them, are w. -/
def decodeTableWord (nbits w : Nat) : Option Instr :=
  match decode (tableBytes nbits w) with
  | .ok i => some i
  | .error _ => none

end Sys2Proof
end

