-- ==== Sys2Proof/Machine/State.lean ====
section
/-! DEFINITION. The state of the frame core (10_state.md), the agents around it as plain data
(00_scope.md R6), the reasons a step can stop, and the state after reset (70_reset_and_hazards.md R252). -/

namespace Sys2Proof.Machine

open Sys2Proof

/-- An 18-byte link address: an opaque byte string, byte 0 first (10_state.md R22, 30_encoding.md R98). -/
structure Addr where
  bytes : List Byte
  length_eq : bytes.length = addrBytes
  deriving DecidableEq, Repr

/-- 18 bytes of 0x00, the reset value of every address register (70_reset_and_hazards.md R252). -/
def Addr.zero : Addr := ⟨List.replicate addrBytes 0, by decide⟩

/-- A header value H (00_scope.md R17), with the eight fields of 30_encoding.md R90. -/
structure Header where
  dest : Addr
  src : Addr
  type : Byte
  protocolId : Half
  payloadLength : Word
  fragmentId : Half
  offsetField : Half
  checksum : Word
  deriving DecidableEq, Repr

/-- The reassembler state (10_state.md R42). -/
inductive RxState where
  | idle
  | awaitingFrame
  | complete
  | aborted
  deriving DecidableEq, Repr

/-- Why a frame was last dropped (10_state.md R25, STATUS[7:6]). -/
inductive DropReason where
  | none
  | protocolMismatch
  | loopbackFrame
  | foreignDestination
  deriving DecidableEq, Repr

/-- The result codes of 60_exceptions.md R220; "all other values are never written". -/
inductive ResultCode where
  | ok
  | incomplete
  | complete
  | transportError
  | malformedFrame
  | bufferOverflow
  | addressResolutionError
  | illegalCommand
  | notAwaiting
  | fragNotActive
  | noFrame
  | messageTooLong
  | frameTooLong
  | rangeError
  deriving DecidableEq, Repr

/-- The commands that wait for the transport's answer to a TxSend (41_fragmenter.md R149, R150). -/
inductive TxCmd where
  | xmit
  | send
  deriving DecidableEq, Repr

/-- The commands that wait for the transport's answer to an RxRecv (42_reassembler.md R172, R176). -/
inductive RxCmd where
  | recv
  | rxStep
  deriving DecidableEq, Repr

/-- The command engine: engine.phase and engine.op of 10_state.md R47 in one value, so that a phase never
holds the opcode of a command that cannot be in it. `run none` runs an illegal command word, which
latches no opcode (43_host_access.md R203). -/
inductive Engine where
  | idle
  | run (op : Option Cmd)
  | waitTx (op : TxCmd)
  | waitRx (op : RxCmd)
  deriving DecidableEq, Repr

/-- engine.phase (10_state.md R47). -/
inductive Phase where
  | idle
  | run
  | waitTx
  | waitRx
  deriving DecidableEq, Repr

/-- engine.phase, read from the engine. -/
def Engine.phase : Engine → Phase
  | .idle => .idle
  | .run _ => .run
  | .waitTx _ => .waitTx
  | .waitRx _ => .waitRx

/-- engine.op, the running command, read from the engine. -/
def Engine.op : Engine → Option Cmd
  | .idle => none
  | .run op => op
  | .waitTx .xmit => some .xmit
  | .waitTx .send => some .send
  | .waitRx .recv => some .recv
  | .waitRx .rxStep => some .rxStep

/-- The stored fields of STATUS (10_state.md R25). BUSY is not stored: it is 1 exactly when the engine is
not idle (R47). -/
structure Status where
  cmdOvr : Bool
  rxState : RxState
  fragActive : Bool
  txValid : Bool
  lastDrop : DropReason
  deriving DecidableEq, Repr

/-- The registers the host programs and the block only reads (10_state.md R27 to R33). -/
structure HostRegs where
  localValid : Bool
  align : Bool
  protocolId : Half
  frameType : Byte
  localAddr : Addr
  remoteAddr : Addr
  msgBase : Word
  msgLen : Word
  outBase : Word
  outCap : Word
  deriving DecidableEq, Repr

/-- FRAG_ID, FRAG_CURSOR and FRAG_OFFBLK (10_state.md R34 to R36). -/
structure FragRegs where
  id : Half
  cursor : Word
  offblk : Word
  deriving DecidableEq, Repr

/-- The hidden fragmenter context FCTX (10_state.md R41). -/
structure Fctx where
  localAddr : Addr
  remoteAddr : Addr
  proto : Half
  type : Byte
  base : Word
  len : Word
  align : Bool
  fragid : Half
  deriving DecidableEq, Repr

/-- RX_TOTAL, RX_OUT_BASE and RX_OUT_CAP (10_state.md R39, R40). -/
structure RxRegs where
  total : Word
  outBase : Word
  outCap : Word
  deriving DecidableEq, Repr

/-- Sparse bytes by address or index, addresses strictly rising. An address that is not listed holds no
value of the model's: nothing has stored to it. -/
abbrev Memory := List Host.Cell

/-- The transport's answer to one TxSend: a count or ERR (00_scope.md R15). -/
inductive TxAnswer where
  | accepted (count : Nat)
  | err
  deriving DecidableEq, Repr

/-- The transport's answer to one RxRecv: a byte sequence or ERR (00_scope.md R15). -/
inductive RxAnswer where
  | delivered (bytes : List Byte)
  | err
  deriving DecidableEq, Repr

/-- What became of a frame offered to the transport: no answer yet, answered, or abandoned by a reset
with the transport having taken it or not (70_reset_and_hazards.md R251). -/
inductive TxFate where
  | pending
  | answered (a : TxAnswer)
  | abandoned (taken : Bool)
  deriving DecidableEq, Repr

/-- One TxSend as the transport's TX side sees it. -/
structure TxRecord where
  frame : List Byte
  fate : TxFate
  deriving DecidableEq, Repr

/-- What the host, the transport or the platform does next. -/
inductive Event where
  /-- The host issues a transaction given by its bytes: a command word or a bus transaction (30_encoding.md R100, R102). -/
  | bus (bytes : List Byte)
  /-- The host accesses a platform address: a read, or a write of a word (43_host_access.md R200, 20_memory.md R77). -/
  | access (addr : Nat) (wdata : Option Word)
  /-- The host stores bytes into its own memory (30_encoding.md R105 MEM). -/
  | hostStore (addr : Word) (bytes : List Byte)
  /-- The host reads n bytes of its own memory (20_memory.md R80). -/
  | hostLoad (addr : Word) (n : Nat)
  /-- The transport answers a TxSend. -/
  | txAnswer (a : TxAnswer)
  /-- The transport answers an RxRecv. -/
  | rxAnswer (a : RxAnswer)
  /-- Power-on or the platform's reset input (70_reset_and_hazards.md R250). -/
  | reset
  deriving DecidableEq, Repr

/-- A move of an outside agent. `overlap` says that the move comes before the engine gets any further
with the command it is running (20_memory.md R79, 60_exceptions.md R232). -/
structure Move where
  overlap : Bool
  event : Event
  deriving DecidableEq, Repr

/-- The agents around the block (00_scope.md R6) and what they have seen: the MODEL's own fields. -/
structure Env where
  /-- The moves to come of the host, the transport and the platform, next one first. -/
  schedule : List Move
  /-- The answers the transport has ready for TxSends, next one first; empty: it does not answer yet (D49). -/
  txAnswers : List TxAnswer
  /-- The answers the transport has ready for RxRecvs, next one first; empty: it does not answer yet (D49). -/
  rxQueue : List RxAnswer
  /-- The entropy source's next draws, next one first; when empty, a draw is a free value (D50). -/
  entropy : List Half
  /-- The frames offered to the transport, newest first. -/
  txLog : List TxRecord
  /-- What the last REG_READ returned to the host. -/
  busData : Word
  /-- What the last load of host memory returned to the host. -/
  hostData : List Byte
  /-- The host memory addresses the host has stored to since the running command began (20_memory.md R80). -/
  raced : List Nat
  /-- How many values of Config.freeWord have been drawn. -/
  draws : Nat
  /-- How many values of Config.busyWord have been drawn. -/
  busyDraws : Nat
  deriving DecidableEq, Repr

/-- The frame core and what is around it. -/
structure State where
  /-- The design-time parameters of this instance (00_scope.md section 4); no step changes them. -/
  cfg : Config
  /-- engine.phase, engine.op and STATUS.BUSY (10_state.md R47). -/
  engine : Engine
  /-- STATUS (10_state.md R25). -/
  status : Status
  /-- RESULT.CODE (10_state.md R26). -/
  result : ResultCode
  /-- CTRL, PROTOCOL_ID, FRAME_TYPE, LOCAL_ADDR, REMOTE_ADDR, MSG_*, OUT_* (10_state.md R27 to R33). -/
  regs : HostRegs
  /-- HDR_* (10_state.md R21). -/
  hdr : Header
  /-- FRAG_ID, FRAG_CURSOR, FRAG_OFFBLK (10_state.md R34 to R36). -/
  frag : FragRegs
  /-- FCTX (10_state.md R41). -/
  fctx : Fctx
  /-- TXLEN (10_state.md R37). -/
  txLen : Word
  /-- RXLEN (10_state.md R38). -/
  rxLen : Word
  /-- RX_TOTAL, RX_OUT_BASE, RX_OUT_CAP (10_state.md R39, R40). -/
  rx : RxRegs
  /-- TXBUF (10_state.md R43): the bytes written since reset, by index. -/
  txBuf : Memory
  /-- RXBUF (10_state.md R44): the bytes written since reset, by index. -/
  rxBuf : Memory
  /-- Host memory (20_memory.md R71): the bytes stored so far, by address. -/
  mem : Memory
  /-- The agents around the block. -/
  env : Env
  deriving DecidableEq, Repr

/-- Why the machine stops with a fault. -/
inductive Fault where
  /-- An access to host memory beyond its 2^32 addresses (20_memory.md R70, R72 "The host address space never
  wraps"). Raised by a host store or load that runs past the end, and by a command's memory access in a
  state no run reaches (the block checks every region first). Safe: no such address exists. -/
  | hostAddressBeyondSpace
  deriving DecidableEq, Repr

/-- Why a step has no meaning. -/
inductive Refusal where
  /-- An instruction that has no meaning in the model yet. Raised by the dispatch only. Safe. -/
  | notModelled (mnemonic : String)
  /-- Bytes that are no host bus transaction (neither a 4-byte command word nor a 45-bit transaction in 6
  bytes). Raised by the step that fetches them. Safe: the bus carries nothing else (30_encoding.md R102). -/
  | notATransaction
  deriving DecidableEq, Repr

/-- The three outcomes of an instruction or a step of this machine. -/
abbrev Result := Host.Outcome State Fault Refusal

/-- STATUS after reset (70_reset_and_hazards.md R252). -/
def Status.reset : Status := ⟨false, .idle, false, false, .none⟩

/-- The host-programmed registers after reset (R252). -/
def HostRegs.reset : HostRegs := ⟨false, false, 0, 0, Addr.zero, Addr.zero, 0, 0, 0, 0⟩

/-- HDR_* after reset (R252). -/
def Header.reset : Header := ⟨Addr.zero, Addr.zero, 0, 0, 0, 0, 0, 0⟩

/-- FCTX after reset (10_state.md R41). -/
def Fctx.reset : Fctx := ⟨Addr.zero, Addr.zero, 0, 0, 0, 0, false, 0⟩

/-- The surroundings with nothing to come and nothing seen (assumption log 2). -/
def Env.start : Env := ⟨[], [], [], [], [], 0, [], [], 0, 0⟩

/-- A block of configuration cfg right after reset (70_reset_and_hazards.md R252), with host memory mem and
surroundings env, which reset does not touch (R254). TXBUF and RXBUF hold nothing written. -/
def State.resetWith (cfg : Config) (mem : Memory) (env : Env) : State where
  cfg := cfg
  engine := .idle
  status := Status.reset
  result := .ok
  regs := HostRegs.reset
  hdr := Header.reset
  frag := ⟨0, 0, 0⟩
  fctx := Fctx.reset
  txLen := 0
  rxLen := 0
  rx := ⟨0, 0, 0⟩
  txBuf := []
  rxBuf := []
  mem := mem
  env := env

/-- The machine right after reset, in configuration CFG-REF. -/
def State.reset : State := State.resetWith Config.ref [] Env.start

end Sys2Proof.Machine
end

