-- ==== Sys2Proof/Machine/Ops.lean ====
section
/-! DEFINITION. The operations every command is built from (00_scope.md R15): host memory and the frame
buffers, the free draws, `raise` and `finish`, and issuing a command. The block has no traps
(60_exceptions.md R228): `raise` is how an error ends a command. -/

namespace Sys2Proof.Machine

open Sys2Proof

/-! ### Sparse bytes -/

/-- The byte stored at an address, if any. -/
def Memory.readByte : Memory → Nat → Option Byte
  | [], _ => none
  | (k, b) :: m, a => if k = a then some b else Memory.readByte m a

/-- Stores one byte, keeping the addresses strictly rising. -/
def Memory.writeByte : Memory → Nat → Byte → Memory
  | [], a, v => [(a, v)]
  | (k, b) :: m, a, v =>
    if a < k then (a, v) :: (k, b) :: m
    else if a = k then (a, v) :: m
    else (k, b) :: Memory.writeByte m a v

/-- Stores bytes one at a time in ascending address order (20_memory.md R76). -/
def Memory.writeBytes (m : Memory) (a : Nat) : List Byte → Memory
  | [] => m
  | b :: s => Memory.writeBytes (m.writeByte a b) (a + 1) s

/-- The canonical form: addresses strictly rising. An address that is not listed holds no value, so no
entry can equal what an unlisted address holds. -/
def Memory.wf (m : Memory) : Bool := decide (m.Pairwise (fun x y => x.1 < y.1))

/-- Every listed address is below a limit. -/
def Memory.below (limit : Nat) (m : Memory) : Bool := m.all (fun c => decide (c.1 < limit))

/-! ### Free draws (93_implementation_defined.md, treatment "any value") -/

/-- The n-th free byte. -/
def freeByte (n : Nat) : Byte := (Config.freeWord n).setWidth 8

/-- The n-th free 16-bit value. -/
def freeHalf (n : Nat) : Half := (Config.freeWord n).setWidth 16

/-- The n-th free choice of two. -/
def freeBool (n : Nat) : Bool := (Config.freeWord n).getLsbD 0

/-- The n-th free choice of a number from 0 to bound. -/
def freeUpTo (n bound : Nat) : Nat := (Config.freeWord n).toNat % (bound + 1)

/-- The n free bytes from a draw on. -/
def freeBytes (draw n : Nat) : List Byte := (List.range n).map (fun i => freeByte (draw + i))

/-- The machine after n more draws. -/
def State.drawn (s : State) (n : Nat) : State := { s with env.draws := s.env.draws + n }

/-- `draw16()`: one answer of the entropy source, under no law (00_scope.md R15, 41_fragmenter.md R145).
The source's next value if the surroundings name one, else a free value. -/
def draw16 (s : State) : Half × State :=
  match s.env.entropy with
  | v :: rest => (v, { s with env.entropy := rest })
  | [] => (freeHalf s.env.draws, s.drawn 1)

/-! ### The engine -/

/-- STATUS.BUSY: 1 exactly when engine.phase is not IDLE (10_state.md R47). -/
def State.busy (s : State) : Bool := decide (s.engine ≠ .idle)

/-- Whether an outside agent moves before the engine gets any further. -/
def State.overlapped (s : State) : Bool :=
  match s.env.schedule with
  | [] => false
  | m :: _ => m.overlap

/-- Ends the running command with a code: RESULT is written and BUSY falls in one event (00_scope.md R15,
60_exceptions.md R232). -/
def State.finish (code : ResultCode) (s : State) : State :=
  { s with result := code, engine := .idle, env.raced := [] }

/-- `raise E` "ends the running command ... `finish E` ends the command the same way"; the difference is
"in name only" (00_scope.md R15). -/
def State.raise (code : ResultCode) (s : State) : State := s.finish code

/-- The outcome of a piece of engine work. -/
def outcomeOf : Except Fault State → Result
  | .ok s => .next s
  | .error f => .fault f

/-- The engine starts a command: BUSY becomes 1 and engine.phase RUN (43_host_access.md R203). -/
def State.begin (op : Option Cmd) (s : State) : State :=
  { s with engine := .run op, env.raced := [] }

/-- A write of a command word to CMD. While BUSY = 1 it is lost and sets CMD_OVR (43_host_access.md R204).
Otherwise the engine begins the command (R203) and runs it to its `raise`, its `finish` or its wait for
the transport, unless an outside agent moves first. -/
def issue (op : Option Cmd) (body : State → Except Fault State) (s : State) : Result :=
  if s.busy then .next { s with status.cmdOvr := true }
  else if (s.begin op).overlapped then .next (s.begin op)
  else outcomeOf (body (s.begin op))

/-! ### Host memory -/

/-- A region of n bytes is in range when base + n ≤ 2^32; a region of length 0 always is (20_memory.md R72). -/
def inRange (base n : Nat) : Bool := decide (n = 0) || decide (base + n ≤ hostSpace)

/-- The byte of host memory at an address. Host memory is plain: reading it is idempotent (20_memory.md R76). -/
def Memory.hostAt (m : Memory) (a : Nat) : Byte := (m.readByte a).getD (Config.hostByte a)

/-- The n bytes of host memory from an address, in ascending order (00_scope.md R15). -/
def Memory.hostBytes (m : Memory) (a n : Nat) : List Byte :=
  (List.range n).map (fun i => m.hostAt (a + i))

/-- One of the addresses lies in [base, base + len). -/
def meets (addresses : List Nat) (base len : Nat) : Bool :=
  addresses.any (fun a => decide (base ≤ a) && decide (a < base + len))

/-- Whether the host has stored into [base, base + len) since the running command began. -/
def State.racedIn (s : State) (base len : Nat) : Bool := meets s.env.raced base len

/-- `MemRead(addr, n)` by a command whose message region is [base, base + len). If the host has stored into
the region while the command runs, every byte read is any value (20_memory.md R80). -/
def State.memRead (s : State) (base len addr n : Nat) : Except Fault (List Byte × State) :=
  if inRange addr n then
    if s.racedIn base len then
      .ok (freeBytes s.env.draws n, s.drawn n)
    else .ok (s.mem.hostBytes addr n, s)
  else .error .hostAddressBeyondSpace

/-- Stores bytes over a memory in which the host has stored to the raced addresses meanwhile: such a byte
is left holding either value, drawn from the draw at its place (20_memory.md R80). -/
def Memory.raceBytes (m : Memory) (raced : List Nat) (draw a : Nat) : List Byte → Memory
  | [] => m
  | b :: s =>
    if raced.contains a && freeBool draw then Memory.raceBytes m raced (draw + 1) (a + 1) s
    else Memory.raceBytes (m.writeByte a b) raced (draw + 1) (a + 1) s

/-- `MemWrite(addr, n, s)` (00_scope.md R15). -/
def State.memWrite (s : State) (addr : Nat) (bytes : List Byte) : Except Fault State :=
  if inRange addr bytes.length then
    if s.env.raced = [] then .ok { s with mem := s.mem.writeBytes addr bytes }
    else .ok ({ s with mem := s.mem.raceBytes s.env.raced s.env.draws addr bytes }.drawn bytes.length)
  else .error .hostAddressBeyondSpace

/-! ### The frame buffers -/

/-- Byte i of a frame buffer, read with the given draw: 0x00 at or above MAX_FRAME_SIZE (10_state.md R45),
any value if nothing has written it since reset (R43, R44, 93_implementation_defined.md U1). -/
def bufferByte (cfg : Config) (buf : Memory) (draw i : Nat) : Byte :=
  if i < cfg.maxFrame then (buf.readByte i).getD (freeByte draw) else 0

/-- Bytes start .. start + n - 1 of a frame buffer, each with a draw of its own from draw on. -/
def bufferBytes (cfg : Config) (buf : Memory) (draw start n : Nat) : List Byte :=
  (List.range n).map (fun i => bufferByte cfg buf (draw + i) (start + i))

/-- Stages a frame: TXBUF[0 ..< len(f)] <- f, TXLEN <- len(f), STATUS.TX_VALID <- 1 (40_codec.md R124). -/
def State.stage (f : List Byte) (s : State) : State :=
  { s with
    txBuf := s.txBuf.writeBytes 0 f
    txLen := BitVec.ofNat 32 f.length
    status.txValid := true }

/-- Takes a delivery: RXBUF[0 ..< len(r)] <- r, RXLEN <- len(r) (42_reassembler.md R172). The transport
delivers at most MAX_FRAME_SIZE bytes (R172), so a longer list stands for its first MAX_FRAME_SIZE. -/
def State.storeCandidate (r : List Byte) (s : State) : State :=
  { s with
    rxBuf := s.rxBuf.writeBytes 0 (r.take s.cfg.maxFrame)
    rxLen := BitVec.ofNat 32 (r.take s.cfg.maxFrame).length }

/-- RXBUF[0 ..< RXLEN], the frame candidate. -/
def State.candidate (s : State) : List Byte :=
  bufferBytes s.cfg s.rxBuf s.env.draws 0 s.rxLen.toNat

/-- TXBUF[0 ..< TXLEN], the staged frame. -/
def State.stagedFrame (s : State) : List Byte :=
  bufferBytes s.cfg s.txBuf s.env.draws 0 s.txLen.toNat

/-! ### The transport -/

/-- Offers the staged frame to the transport and waits: engine.phase <- WAIT_TX, TxSend (41_fragmenter.md R149). -/
def State.offer (op : TxCmd) (s : State) : State :=
  { s with
    engine := .waitTx op
    env.txLog := ⟨s.stagedFrame, .pending⟩ :: s.env.txLog
    env.draws := s.env.draws + s.txLen.toNat }

/-- Writes what became of the frame last offered. -/
def settleLast (fate : TxFate) : List TxRecord → List TxRecord
  | [] => []
  | r :: log => { r with fate := fate } :: log

/-- The transport answers the TxSend in flight, the other answers staying ready: STATUS.TX_VALID <- 0
(41_fragmenter.md R149, R150). -/
def State.answered (a : TxAnswer) (rest : List TxAnswer) (s : State) : State :=
  { s with
    status.txValid := false
    env.txAnswers := rest
    env.txLog := settleLast (.answered a) s.env.txLog }

/-- The send succeeded: not (r = ERR or r ≠ TXLEN) (41_fragmenter.md R149). -/
def sendAccepted (a : TxAnswer) (txLen : Word) : Bool :=
  match a with
  | .accepted n => decide (n = txLen.toNat)
  | .err => false

end Sys2Proof.Machine
end

