-- ==== Sys2Proof/Machine/Flags.lean ====
section
/-! DEFINITION. STATUS, RESULT and CTRL as the host sees them (10_state.md R25 to R27, R48). The block has
no condition codes (R48). -/

namespace Sys2Proof.Machine

open Sys2Proof

/-- STATUS[3:2]: 0 IDLE, 1 AWAITING_FRAME, 2 COMPLETE, 3 ABORTED (10_state.md R25). -/
def RxState.bits : RxState → BitVec 2
  | .idle => 0
  | .awaitingFrame => 1
  | .complete => 2
  | .aborted => 3

/-- STATUS[7:6]: 0 NONE, 1 PROTOCOL_MISMATCH, 2 LOOPBACK_FRAME, 3 FOREIGN_DESTINATION (10_state.md R25). -/
def DropReason.bits : DropReason → BitVec 2
  | .none => 0
  | .protocolMismatch => 1
  | .loopbackFrame => 2
  | .foreignDestination => 3

/-- The numeric values of 60_exceptions.md R220. -/
def ResultCode.code : ResultCode → Byte
  | .ok => 0x00
  | .incomplete => 0x01
  | .complete => 0x02
  | .transportError => 0x10
  | .malformedFrame => 0x11
  | .bufferOverflow => 0x12
  | .addressResolutionError => 0x13
  | .illegalCommand => 0x20
  | .notAwaiting => 0x21
  | .fragNotActive => 0x22
  | .noFrame => 0x23
  | .messageTooLong => 0x24
  | .frameTooLong => 0x25
  | .rangeError => 0x26

/-- STATUS as a word: {24'b0, LAST_DROP, TX_VALID, FRAG_ACTIVE, RX_STATE, CMD_OVR, BUSY} (43_host_access.md R201). -/
def State.statusWord (s : State) : Word :=
  0#24 ++ s.status.lastDrop.bits ++ BitVec.ofBool s.status.txValid ++ BitVec.ofBool s.status.fragActive
    ++ s.status.rxState.bits ++ BitVec.ofBool s.status.cmdOvr ++ BitVec.ofBool s.busy

/-- STATUS read while BUSY = 1: BUSY and CMD_OVR are exact and every other bit is drawn (43_host_access.md
R201, 93_implementation_defined.md U3). -/
def State.busyStatusWord (s : State) : Word :=
  (Config.busyWord s.env.busyDraws).extractLsb' 2 30 ++ BitVec.ofBool s.status.cmdOvr ++ 1#1

/-- A write to STATUS: writing 1 to bit 1 clears CMD_OVR, every other bit is ignored (43_host_access.md R202). -/
def State.writeStatus (data : Word) (s : State) : State :=
  if data.getLsbD 1 then { s with status.cmdOvr := false } else s

/-- CTRL as a word: bit 0 LOCAL_VALID, bit 1 ALIGN (10_state.md R27). -/
def HostRegs.ctrlWord (r : HostRegs) : Word :=
  0#30 ++ BitVec.ofBool r.align ++ BitVec.ofBool r.localValid

/-- A write to CTRL (10_state.md R27). -/
def HostRegs.writeCtrl (data : Word) (r : HostRegs) : HostRegs :=
  { r with localValid := data.getLsbD 0, align := data.getLsbD 1 }

end Sys2Proof.Machine
end

