-- ==== Sys2Proof/Machine/Wire.lean ====
section
/-! DEFINITION. The wire format: header layout, byte order, and the pure functions encode and decode
(30_encoding.md section 1, 40_codec.md section 1). -/

namespace Sys2Proof.Machine

open Sys2Proof

/-- Bytes lo .. hi - 1 of a byte sequence: s[lo ..< hi] (00_scope.md R13). -/
def slice (s : List Byte) (lo hi : Nat) : List Byte := (s.drop lo).take (hi - lo)

/-- An address from the first 18 bytes of a sequence (00 bytes where it is shorter). -/
def Addr.ofList (s : List Byte) : Addr :=
  ⟨(s ++ List.replicate addrBytes 0).take addrBytes, by simp⟩

/-- The n bytes of v in WIRE_ORDER (30_encoding.md R91). -/
def packNat (order : WireOrder) (n v : Nat) : List Byte :=
  match order with
  | .le => leBytes n v
  | .be => (leBytes n v).reverse

/-- The number whose bytes in WIRE_ORDER are s (30_encoding.md R91). -/
def unpackNat (order : WireOrder) (s : List Byte) : Nat :=
  match order with
  | .le => leNat s
  | .be => leNat s.reverse

/-- `pack16` (30_encoding.md R91). -/
def pack16 (order : WireOrder) (v : Half) : List Byte := packNat order 2 v.toNat

/-- `pack32` (30_encoding.md R91). -/
def pack32 (order : WireOrder) (v : Word) : List Byte := packNat order 4 v.toNat

/-- `unpack16` (30_encoding.md R91). -/
def unpack16 (order : WireOrder) (s : List Byte) : Half := BitVec.ofNat 16 (unpackNat order s)

/-- `unpack32` (30_encoding.md R91). -/
def unpack32 (order : WireOrder) (s : List Byte) : Word := BitVec.ofNat 32 (unpackNat order s)

/-- H.offblk = H.offset_field[14:0] (30_encoding.md R93). -/
def Header.offblk (h : Header) : Nat := (h.offsetField.extractLsb' 0 15).toNat

/-- H.more = H.offset_field[15] (30_encoding.md R93). -/
def Header.more (h : Header) : Bool := h.offsetField.getLsbD 15

/-- offset_field = {more, offblk[14:0]} (30_encoding.md R93). -/
def offsetFieldOf (more : Bool) (offblk : Word) : Half :=
  BitVec.ofBool more ++ offblk.extractLsb' 0 15

/-- `pack_header(H)`, 51 bytes (40_codec.md R120). -/
def packHeader (order : WireOrder) (h : Header) : List Byte :=
  h.dest.bytes ++ h.src.bytes ++ [h.type] ++ pack16 order h.protocolId
    ++ pack32 order h.payloadLength ++ pack16 order h.fragmentId
    ++ pack16 order h.offsetField ++ pack32 order h.checksum

/-- `unpack_header(s)` for a sequence of at least 51 bytes (40_codec.md R121). -/
def unpackHeader (order : WireOrder) (s : List Byte) : Header where
  dest := Addr.ofList (slice s 0 18)
  src := Addr.ofList (slice s 18 36)
  type := s.getD 36 0
  protocolId := unpack16 order (slice s 37 39)
  payloadLength := unpack32 order (slice s 39 43)
  fragmentId := unpack16 order (slice s 43 45)
  offsetField := unpack16 order (slice s 45 47)
  checksum := unpack32 order (slice s 47 51)

/-- `encode(H, p)` (40_codec.md R122). -/
def encodeFrame (order : WireOrder) (h : Header) (p : List Byte) : List Byte :=
  packHeader order h ++ p

/-- `decode(s)`; none is MALFORMED (40_codec.md R123). -/
def decodeFrame (order : WireOrder) (s : List Byte) : Option (Header × List Byte) :=
  if s.length < headerSize then none
  else if (unpackHeader order s).payloadLength.toNat > s.length - headerSize then none
  else some (unpackHeader order s,
    slice s headerSize (headerSize + (unpackHeader order s).payloadLength.toNat))

end Sys2Proof.Machine
end

