-- ==== Sys2Proof/Machine/Operands.lean ====
section
/-! DEFINITION. The register map and what each register reads as and does when written (10_state.md R20 to
R46, 43_host_access.md R200 to R202), and the derived parameters M and K (00_scope.md R10). -/

namespace Sys2Proof.Machine

open Sys2Proof

/-- M, the effective payload budget (00_scope.md R10). -/
def payloadBudget (c : Config) : Nat := c.maxFrame - headerSize

/-- K, the blocks advanced per full chunk (00_scope.md R10). -/
def blocksPerChunk (c : Config) : Nat := payloadBudget c / c.blockSize

/-- What a word index names (10_state.md R20). Address and window words carry their number. -/
inductive Target where
  | cmd
  | status
  | result
  | ctrl
  | protocolId
  | frameType
  | localAddr (j : Nat)
  | remoteAddr (j : Nat)
  | msgBase
  | msgLen
  | outBase
  | outCap
  | fragId
  | fragCursor
  | fragOffblk
  | txLen
  | rxLen
  | rxTotal
  | rxOutBase
  | rxOutCap
  | hdrDest (j : Nat)
  | hdrSrc (j : Nat)
  | hdrType
  | hdrProto
  | hdrPlen
  | hdrFragid
  | hdrOffset
  | hdrCksum
  | txWindow (k : Nat)
  | rxWindow (k : Nat)
  | reserved
  deriving DecidableEq, Repr

/-- The registers that are a single word, by word index: offset / 4 of 10_state.md R20. -/
def singleTargets : List (Nat × Target) :=
  [(0x00, .cmd), (0x01, .status), (0x02, .result), (0x03, .ctrl), (0x04, .protocolId),
    (0x05, .frameType), (0x12, .msgBase), (0x13, .msgLen), (0x14, .outBase), (0x15, .outCap),
    (0x16, .fragId), (0x17, .fragCursor), (0x18, .fragOffblk), (0x19, .txLen), (0x1A, .rxLen),
    (0x1B, .rxTotal), (0x1C, .rxOutBase), (0x1D, .rxOutCap)]
  ++ [(0x2C, .hdrType), (0x2D, .hdrProto), (0x2E, .hdrPlen), (0x2F, .hdrFragid),
    (0x30, .hdrOffset), (0x31, .hdrCksum)]

/-- What a word index names. Indices no row names, and 0xC00 .. 0xFFF, are reserved (10_state.md R46,
30_encoding.md R102). -/
def targetOf (index : BitVec 12) : Target :=
  let n := index.toNat
  if 0x800 ≤ n ∧ n < 0xC00 then .rxWindow (n - 0x800)
  else if 0x400 ≤ n ∧ n < 0x800 then .txWindow (n - 0x400)
  else if 0x06 ≤ n ∧ n < 0x0B then .localAddr (n - 0x06)
  else if 0x0C ≤ n ∧ n < 0x11 then .remoteAddr (n - 0x0C)
  else if 0x20 ≤ n ∧ n < 0x25 then .hdrDest (n - 0x20)
  else if 0x26 ≤ n ∧ n < 0x2B then .hdrSrc (n - 0x26)
  else (singleTargets.lookup n).getD .reserved

/-- "Offset bits [1:0] are ignored, so word index = offset[13:2]" (43_host_access.md R200). -/
def indexOfOffset (offset : BitVec 14) : BitVec 12 := offset.extractLsb' 2 12

/-- The bus offset of a platform address, if it lies in the block's 16 KiB from BLOCK_BASE (20_memory.md
R77, 43_host_access.md R200). -/
def offsetOfAddress (addr : Nat) : Option (BitVec 14) :=
  if Config.blockBase ≤ addr ∧ addr < Config.blockBase + 2 ^ 14 then
    some (BitVec.ofNat 14 (addr - Config.blockBase))
  else none

/-- Word j of an address: byte 4j + i in bits [8i + 7 : 8i], the bits past byte 17 zero (10_state.md R22). -/
def Addr.word (a : Addr) (j : Nat) : Word := BitVec.ofNat 32 (leNat (slice a.bytes (4 * j) (4 * j + 4)))

/-- Writes word j of an address; bytes past byte 17 are dropped (10_state.md R22). -/
def Addr.setWord (a : Addr) (j : Nat) (w : Word) : Addr :=
  Addr.ofList (a.bytes.take (4 * j) ++ leBytes 4 w.toNat ++ a.bytes.drop (4 * j + 4))

/-- Window word k of a frame buffer (10_state.md R45). -/
def windowWord (cfg : Config) (buf : Memory) (draw k : Nat) : Word :=
  BitVec.ofNat 32 (leNat (bufferBytes cfg buf draw (4 * k) 4))

/-- A write of window word k: all four bytes, those at or above MAX_FRAME_SIZE dropped (10_state.md R45). -/
def writeWindow (cfg : Config) (buf : Memory) (k : Nat) (w : Word) : Memory :=
  buf.writeBytes (4 * k) ((leBytes 4 w.toNat).take (cfg.maxFrame - 4 * k))

/-- The value REG_READ returns while BUSY = 0, unused bits reading 0 (43_host_access.md R201). -/
def State.readTarget (s : State) : Target → Word
  | .cmd => 0
  | .status => s.statusWord
  | .result => s.result.code.setWidth 32
  | .ctrl => s.regs.ctrlWord
  | .protocolId => s.regs.protocolId.setWidth 32
  | .frameType => s.regs.frameType.setWidth 32
  | .localAddr j => s.regs.localAddr.word j
  | .remoteAddr j => s.regs.remoteAddr.word j
  | .msgBase => s.regs.msgBase
  | .msgLen => s.regs.msgLen
  | .outBase => s.regs.outBase
  | .outCap => s.regs.outCap
  | .fragId => s.frag.id.setWidth 32
  | .fragCursor => s.frag.cursor
  | .fragOffblk => s.frag.offblk
  | .txLen => s.txLen
  | .rxLen => s.rxLen
  | .rxTotal => s.rx.total
  | .rxOutBase => s.rx.outBase
  | .rxOutCap => s.rx.outCap
  | .hdrDest j => s.hdr.dest.word j
  | .hdrSrc j => s.hdr.src.word j
  | .hdrType => s.hdr.type.setWidth 32
  | .hdrProto => s.hdr.protocolId.setWidth 32
  | .hdrPlen => s.hdr.payloadLength
  | .hdrFragid => s.hdr.fragmentId.setWidth 32
  | .hdrOffset => s.hdr.offsetField.setWidth 32
  | .hdrCksum => s.hdr.checksum
  | .txWindow k => windowWord s.cfg s.txBuf s.env.draws k
  | .rxWindow k => windowWord s.cfg s.rxBuf s.env.draws k
  | .reserved => 0

/-- The value REG_READ returns while BUSY = 1: BUSY and CMD_OVR exact, every other field, register and
window word any value (43_host_access.md R201). CMD "always returns 0" (R201) and a reserved offset reads
0 (10_state.md R46). -/
def State.busyReadTarget (s : State) : Target → Word
  | .cmd => 0
  | .reserved => 0
  | .status => s.busyStatusWord
  | _ => Config.busyWord s.env.busyDraws

/-- The effect of REG_WRITE on a target other than CMD while BUSY = 0: each field gets its bits of data,
RAZ/WI bits are dropped, and RO targets, the TXBUF window and reserved offsets ignore it
(43_host_access.md R202). -/
def State.writeTarget (s : State) (data : Word) : Target → State
  | .cmd => s
  | .status => s.writeStatus data
  | .result => s
  | .ctrl => { s with regs := s.regs.writeCtrl data }
  | .protocolId => { s with regs.protocolId := data.setWidth 16 }
  | .frameType => { s with regs.frameType := data.setWidth 8 }
  | .localAddr j => { s with regs.localAddr := s.regs.localAddr.setWord j data }
  | .remoteAddr j => { s with regs.remoteAddr := s.regs.remoteAddr.setWord j data }
  | .msgBase => { s with regs.msgBase := data }
  | .msgLen => { s with regs.msgLen := data }
  | .outBase => { s with regs.outBase := data }
  | .outCap => { s with regs.outCap := data }
  | .fragId => s
  | .fragCursor => s
  | .fragOffblk => s
  | .txLen => s
  | .rxLen => if data.toNat ≤ s.cfg.maxFrame then { s with rxLen := data } else s
  | .rxTotal => s
  | .rxOutBase => s
  | .rxOutCap => s
  | .hdrDest j => { s with hdr.dest := s.hdr.dest.setWord j data }
  | .hdrSrc j => { s with hdr.src := s.hdr.src.setWord j data }
  | .hdrType => { s with hdr.type := data.setWidth 8 }
  | .hdrProto => { s with hdr.protocolId := data.setWidth 16 }
  | .hdrPlen => { s with hdr.payloadLength := data }
  | .hdrFragid => { s with hdr.fragmentId := data.setWidth 16 }
  | .hdrOffset => { s with hdr.offsetField := data.setWidth 16 }
  | .hdrCksum => { s with hdr.checksum := data }
  | .txWindow _ => s
  | .rxWindow k => { s with rxBuf := writeWindow s.cfg s.rxBuf k data }
  | .reserved => s

end Sys2Proof.Machine
end

