-- ==== Sys2Proof/Machine/Codec.lean ====
section
/-! DEFINITION. ENCODE and DECODE (40_codec.md sections 2 and 3). -/

namespace Sys2Proof.Machine

open Sys2Proof

/-- The body of ENCODE: the header registers and a payload from host memory into TXBUF (40_codec.md R124). -/
def runEncode (s : State) : Except Fault State :=
  if s.hdr.payloadLength.toNat > payloadBudget s.cfg then .ok (s.raise .frameTooLong)
  else if !inRange s.regs.msgBase.toNat s.hdr.payloadLength.toNat then .ok (s.raise .rangeError)
  else
    match s.memRead s.regs.msgBase.toNat s.hdr.payloadLength.toNat s.regs.msgBase.toNat
        s.hdr.payloadLength.toNat with
    | .error f => .error f
    | .ok (p, s) => .ok ((s.stage (encodeFrame s.cfg.wireOrder s.hdr p)).finish .ok)

/-- ENCODE (opcode 0x01). -/
def execEncode (s : State) : Result := issue (some .encode) runEncode s

/-- The body of DECODE: the frame candidate in RXBUF into the header registers (40_codec.md R126). -/
def runDecode (s : State) : Except Fault State :=
  match decodeFrame s.cfg.wireOrder s.candidate with
  | none => .ok ((s.drawn s.rxLen.toNat).raise .malformedFrame)
  | some (h, _) => .ok (({ s with hdr := h }.drawn s.rxLen.toNat).finish .ok)

/-- DECODE (opcode 0x02). -/
def execDecode (s : State) : Result := issue (some .decode) runDecode s

end Sys2Proof.Machine
end

