-- ==== Sys2Proof/Machine/Fragmenter.lean ====
section
/-! DEFINITION. FRAG_START, FRAG_NEXT, XMIT and SEND (41_fragmenter.md). -/

namespace Sys2Proof.Machine

open Sys2Proof

/-- step(align): M in reference mode, K × BLOCK_SIZE in aligned mode (41_fragmenter.md R140). -/
def chunkStep (c : Config) (align : Bool) : Nat :=
  if align then blocksPerChunk c * c.blockSize else payloadBudget c

/-- `ceil_div(a, b)` (00_scope.md R14). -/
def ceilDiv (a b : Nat) : Nat := (a + b - 1) / b

/-- n(L, align): the number of frames of a message of length L (41_fragmenter.md R140). -/
def frameCount (c : Config) (len : Nat) (align : Bool) : Nat :=
  if len = 0 then 1 else ceilDiv len (chunkStep c align)

/-- too_long(L, align): the last chunk's offset in blocks does not fit 15 bits (41_fragmenter.md R144). -/
def tooLong (c : Config) (len : Nat) (align : Bool) : Bool :=
  decide ((frameCount c len align - 1) * blocksPerChunk c > 0x7FFF)

/-- The latched context of a message whose fragment_id is v (41_fragmenter.md R143). -/
def HostRegs.context (r : HostRegs) (v : Half) : Fctx where
  localAddr := r.localAddr
  remoteAddr := r.remoteAddr
  proto := r.protocolId
  type := r.frameType
  base := r.msgBase
  len := r.msgLen
  align := r.align
  fragid := v

/-- The body of FRAG_START without its final `finish OK`: the message is begun, or a code is raised
(41_fragmenter.md R143). -/
def startMessage (s : State) : Except ResultCode State :=
  if !s.regs.localValid then .error .addressResolutionError
  else if !inRange s.regs.msgBase.toNat s.regs.msgLen.toNat then .error .rangeError
  else if tooLong s.cfg s.regs.msgLen.toNat s.regs.align then .error .messageTooLong
  else
    match draw16 s with
    | (v, s) => .ok { s with
        fctx := s.regs.context v
        frag := ⟨v, 0, 0⟩
        status.fragActive := true }

/-- The body of FRAG_START. -/
def runFragStart (s : State) : Except Fault State :=
  match startMessage s with
  | .error code => .ok (s.raise code)
  | .ok s => .ok (s.finish .ok)

/-- FRAG_START (opcode 0x10). -/
def execFragStart (s : State) : Result := issue (some .fragStart) runFragStart s

/-- The payload length of the next frame: min(step, FCTX.len - FRAG_CURSOR) (41_fragmenter.md R146). -/
def State.nextPlen (s : State) : Nat :=
  min (chunkStep s.cfg s.fctx.align) (s.fctx.len.toNat - s.frag.cursor.toNat)

/-- more: the next frame is not the last (41_fragmenter.md R146). -/
def State.nextMore (s : State) : Bool :=
  decide (s.frag.cursor.toNat + s.nextPlen < s.fctx.len.toNat)

/-- The header of the next frame (41_fragmenter.md R142, R146). -/
def State.nextHeader (s : State) : Header where
  dest := s.fctx.remoteAddr
  src := s.fctx.localAddr
  type := s.fctx.type
  protocolId := s.fctx.proto
  payloadLength := BitVec.ofNat 32 s.nextPlen
  fragmentId := s.fctx.fragid
  offsetField := offsetFieldOf s.nextMore s.frag.offblk
  checksum := 0

/-- FRAG_CURSOR, FRAG_OFFBLK and FRAG_ACTIVE move past the next frame (41_fragmenter.md R146). -/
def State.pastNext (s : State) : State :=
  { s with
    frag.cursor := BitVec.ofNat 32 (s.frag.cursor.toNat + s.nextPlen)
    frag.offblk := BitVec.ofNat 32 (s.frag.offblk.toNat + s.nextPlen / s.cfg.blockSize)
    status.fragActive := if s.nextMore then s.status.fragActive else false }

/-- The body of FRAG_NEXT from `step <- ...` up to, not including, its `finish OK`: the next frame is read,
packed and staged (41_fragmenter.md R146). -/
def nextFrame (s : State) : Except Fault State :=
  match s.memRead s.fctx.base.toNat s.fctx.len.toNat (s.fctx.base.toNat + s.frag.cursor.toNat)
      s.nextPlen with
  | .error f => .error f
  | .ok (p, s) => .ok (s.pastNext.stage (encodeFrame s.cfg.wireOrder s.nextHeader p))

/-- The body of FRAG_NEXT. -/
def runFragNext (s : State) : Except Fault State :=
  if !s.status.fragActive then .ok (s.raise .fragNotActive)
  else
    match nextFrame s with
    | .error f => .error f
    | .ok s => .ok (s.finish .ok)

/-- FRAG_NEXT (opcode 0x11). -/
def execFragNext (s : State) : Result := issue (some .fragNext) runFragNext s

/-- XMIT in WAIT_TX: it stays there until the transport answers (41_fragmenter.md R149). -/
def xmitWait (s : State) : State :=
  match s.env.txAnswers with
  | [] => s
  | a :: rest =>
    if sendAccepted a s.txLen then (s.answered a rest).finish .ok
    else (s.answered a rest).raise .transportError

/-- The body of XMIT (41_fragmenter.md R149). -/
def runXmit (s : State) : Except Fault State :=
  if !s.status.txValid then .ok (s.raise .noFrame)
  else .ok (xmitWait (s.offer .xmit))

/-- XMIT (opcode 0x12). -/
def execXmit (s : State) : Result := issue (some .xmit) runXmit s

/-- SEND in WAIT_TX with the answers the transport has ready. Each answer ends the send of one frame; then
SEND fails, ends, or builds and offers the next frame (41_fragmenter.md R150). -/
def sendWait : List TxAnswer → State → Except Fault State
  | [], s => .ok s
  | a :: rest, s =>
    if !sendAccepted a s.txLen then
      .ok ({ s.answered a rest with status.fragActive := false }.raise .transportError)
    else if !s.status.fragActive then .ok ((s.answered a rest).finish .ok)
    else
      match nextFrame (s.answered a rest) with
      | .error f => .error f
      | .ok s => sendWait rest (s.offer .send)

/-- The body of SEND (41_fragmenter.md R150). -/
def runSend (s : State) : Except Fault State :=
  match startMessage s with
  | .error code => .ok (s.raise code)
  | .ok s =>
    match nextFrame s with
    | .error f => .error f
    | .ok s => sendWait s.env.txAnswers (s.offer .send)

/-- SEND (opcode 0x13). -/
def execSend (s : State) : Result := issue (some .send) runSend s

end Sys2Proof.Machine
end

