-- ==== Sys2Proof/Machine/Reassembler.lean ====
section
/-! DEFINITION. RX_INIT, RECV, RX_PROCESS and RX_STEP (42_reassembler.md). -/

namespace Sys2Proof.Machine

open Sys2Proof

/-- The body of RX_INIT (42_reassembler.md R171). -/
def runRxInit (s : State) : Except Fault State :=
  if !s.regs.localValid then .ok (s.raise .addressResolutionError)
  else if !inRange s.regs.outBase.toNat s.regs.outCap.toNat then .ok (s.raise .rangeError)
  else .ok ({ s with
    rx := ⟨0, s.regs.outBase, s.regs.outCap⟩
    status.lastDrop := .none
    status.rxState := .awaitingFrame }.finish .ok)

/-- RX_INIT (opcode 0x20). -/
def execRxInit (s : State) : Result := issue (some .rxInit) runRxInit s

/-- RECV in WAIT_RX: it stays there until the transport answers (42_reassembler.md R172). -/
def recvWait (s : State) : State :=
  match s.env.rxQueue with
  | [] => s
  | .err :: rest => { s with env.rxQueue := rest }.raise .transportError
  | .delivered r :: rest => ({ s with env.rxQueue := rest }.storeCandidate r).finish .ok

/-- The body of RECV (42_reassembler.md R172). -/
def runRecv (s : State) : Except Fault State := .ok (recvWait { s with engine := .waitRx .recv })

/-- RECV (opcode 0x21). -/
def execRecv (s : State) : Result := issue (some .recv) runRecv s

/-- The outcomes of the arrival-order filter (42_reassembler.md R173). -/
inductive Verdict where
  | malformed
  | drop (reason : DropReason)
  | accept (h : Header) (p : List Byte)
  deriving DecidableEq, Repr

/-- `classify(s, local, proto)`: the source's tests in the source's order (42_reassembler.md R173). -/
def classify (order : WireOrder) (s : List Byte) (localAddr : Addr) (proto : Half) : Verdict :=
  match decodeFrame order s with
  | none => .malformed
  | some (h, p) =>
    if h.protocolId ≠ proto then .drop .protocolMismatch
    else if h.src = localAddr then .drop .loopbackFrame
    else if h.dest ≠ localAddr then .drop .foreignDestination
    else .accept h p

/-- start = H.offblk * BLOCK_SIZE: the output byte an accepted frame's payload begins at (42_reassembler.md R174). -/
def payloadStart (c : Config) (h : Header) : Nat := h.offblk * c.blockSize

/-- end = start + H.payload_length, computed exactly (42_reassembler.md R174). -/
def payloadEnd (c : Config) (h : Header) : Nat := payloadStart c h + h.payloadLength.toNat

/-- The verdict on a candidate with LOCAL_ADDR and PROTOCOL_ID as they are now (42_reassembler.md R174). -/
def State.verdict (s : State) (cand : List Byte) : Verdict :=
  classify s.cfg.wireOrder cand s.regs.localAddr s.regs.protocolId

/-- RX_PROCESS from `c <- classify(...)` to its end, on a candidate (42_reassembler.md R174). -/
def arrival (cand : List Byte) (s : State) : Except Fault State :=
  match s.verdict cand with
  | .malformed => .ok ({ s with status.lastDrop := .none }.raise .malformedFrame)
  | .drop reason => .ok ({ s with status.lastDrop := reason }.finish .incomplete)
  | .accept h p =>
    if payloadEnd s.cfg h > s.rx.outCap.toNat then
      .ok ({ s with status.lastDrop := .none, status.rxState := .aborted }.raise .bufferOverflow)
    else
      match { s with status.lastDrop := .none }.memWrite
          (s.rx.outBase.toNat + payloadStart s.cfg h) p with
      | .error f => .error f
      | .ok s' =>
        if h.more then .ok (s'.finish .incomplete)
        else .ok ({ s' with
          status.rxState := .complete
          rx.total := BitVec.ofNat 32 (payloadEnd s.cfg h) }.finish .complete)

/-- The arrival of the candidate in RXBUF. -/
def arrivalOfCandidate (s : State) : Except Fault State :=
  arrival s.candidate (s.drawn s.rxLen.toNat)

/-- The checks RX_PROCESS and RX_STEP make first (42_reassembler.md R174, R176). -/
def rxRefusal (s : State) : Option ResultCode :=
  if !s.regs.localValid then some .addressResolutionError
  else if s.status.rxState ≠ .awaitingFrame then some .notAwaiting
  else none

/-- The body of RX_PROCESS (42_reassembler.md R174). -/
def runRxProcess (s : State) : Except Fault State :=
  match rxRefusal s with
  | some code => .ok (s.raise code)
  | none => arrivalOfCandidate s

/-- RX_PROCESS (opcode 0x22). -/
def execRxProcess (s : State) : Result := issue (some .rxProcess) runRxProcess s

/-- RX_STEP in WAIT_RX: it stays there until the transport answers (42_reassembler.md R176). -/
def rxStepWait (s : State) : Except Fault State :=
  match s.env.rxQueue with
  | [] => .ok s
  | .err :: rest => .ok ({ s with env.rxQueue := rest }.raise .transportError)
  | .delivered r :: rest => arrivalOfCandidate ({ s with env.rxQueue := rest }.storeCandidate r)

/-- The body of RX_STEP (42_reassembler.md R176). -/
def runRxStep (s : State) : Except Fault State :=
  match rxRefusal s with
  | some code => .ok (s.raise code)
  | none => rxStepWait { s with engine := .waitRx .rxStep }

/-- RX_STEP (opcode 0x23). -/
def execRxStep (s : State) : Result := issue (some .rxStep) runRxStep s

end Sys2Proof.Machine
end

