-- ==== Sys2Proof/Machine/HostAccess.lean ====
section
/-! DEFINITION. REG_READ and REG_WRITE, and how a word written to CMD issues a command (43_host_access.md). -/

namespace Sys2Proof.Machine

open Sys2Proof

/-- An illegal command word sets BUSY for the command, runs nothing and raises ILLEGAL_COMMAND
(30_encoding.md R103, 43_host_access.md R203). -/
def runIllegal (s : State) : Except Fault State := .ok (s.raise .illegalCommand)

/-- An illegal command word written to CMD. -/
def execIllegal (s : State) : Result := issue none runIllegal s

/-- A word written to CMD (43_host_access.md R203, R204). -/
def writeCmd (data : Word) (s : State) : Result :=
  match commandOf data with
  | some .encode => execEncode s
  | some .decode => execDecode s
  | some .fragStart => execFragStart s
  | some .fragNext => execFragNext s
  | some .xmit => execXmit s
  | some .send => execSend s
  | some .rxInit => execRxInit s
  | some .recv => execRecv s
  | some .rxProcess => execRxProcess s
  | some .rxStep => execRxStep s
  | none => execIllegal s

/-- The draws a read while BUSY = 0 may take: one for each byte of a window word, none for a register. -/
def readDraws : Target → Nat
  | .txWindow _ => 4
  | .rxWindow _ => 4
  | _ => 0

/-- REG_READ: it returns a value to the host and changes no state of the block (43_host_access.md R201). -/
def execRegRead (index : BitVec 12) (s : State) : Result :=
  if s.busy then
    .next { s with
      env.busData := s.busyReadTarget (targetOf index)
      env.busyDraws := s.env.busyDraws + 1 }
  else
    .next ({ s with env.busData := s.readTarget (targetOf index) }.drawn (readDraws (targetOf index)))

/-- REG_WRITE. CMD issues a command, STATUS clears CMD_OVR at any time, and any other target is written
while BUSY = 0 and ignored while BUSY = 1 (43_host_access.md R202 to R205). -/
def execRegWrite (index : BitVec 12) (data : Word) (s : State) : Result :=
  match targetOf index with
  | .cmd => writeCmd data s
  | .status => .next (s.writeStatus data)
  | t => if s.busy then .next s else .next (s.writeTarget data t)

end Sys2Proof.Machine
end

