-- ==== Sys2Proof/Machine/Dispatch.lean ====
section
/-! DEFINITION. One arm per instruction of the opcode table. -/

namespace Sys2Proof.Machine

def exec (i : Instr) (s : State) : Host.Outcome State Fault Refusal :=
  match i with
  | .encode => Sys2Proof.Machine.execEncode s
  | .decode => Sys2Proof.Machine.execDecode s
  | .fragStart => Sys2Proof.Machine.execFragStart s
  | .fragNext => Sys2Proof.Machine.execFragNext s
  | .xmit => Sys2Proof.Machine.execXmit s
  | .send => Sys2Proof.Machine.execSend s
  | .rxInit => Sys2Proof.Machine.execRxInit s
  | .recv => Sys2Proof.Machine.execRecv s
  | .rxProcess => Sys2Proof.Machine.execRxProcess s
  | .rxStep => Sys2Proof.Machine.execRxStep s
  | .regRead index => Sys2Proof.Machine.execRegRead index s
  | .regWrite index data => Sys2Proof.Machine.execRegWrite index data s

end Sys2Proof.Machine
end

