-- ==== Sys2Proof/Machine/World.lean ====
section
/-! DEFINITION. What happens besides transactions: the engine going on with its command, the host using its
own memory, the transport answering, and reset (00_scope.md R6, 20_memory.md R79 to R82,
70_reset_and_hazards.md section 1). -/

namespace Sys2Proof.Machine

open Sys2Proof

/-! ### The engine -/

/-- The body of a command. -/
def runCmd : Cmd → State → Except Fault State
  | .encode => runEncode
  | .decode => runDecode
  | .fragStart => runFragStart
  | .fragNext => runFragNext
  | .xmit => runXmit
  | .send => runSend
  | .rxInit => runRxInit
  | .recv => runRecv
  | .rxProcess => runRxProcess
  | .rxStep => runRxStep

/-- The engine can go on: it is in RUN, or the transport has answered what it waits for (10_state.md R47). -/
def State.engineReady (s : State) : Bool :=
  match s.engine with
  | .idle => false
  | .run _ => true
  | .waitTx _ => !s.env.txAnswers.isEmpty
  | .waitRx _ => !s.env.rxQueue.isEmpty

/-- The engine goes on with its command, to its end or its next wait (10_state.md R47, 60_exceptions.md R232). -/
def advanceEngine (s : State) : Except Fault State :=
  match s.engine with
  | .idle => .ok s
  | .run none => runIllegal s
  | .run (some c) => runCmd c s
  | .waitTx .xmit => .ok (xmitWait s)
  | .waitTx .send => sendWait s.env.txAnswers s
  | .waitRx .recv => .ok (recvWait s)
  | .waitRx .rxStep => rxStepWait s

/-- The engine's move as an outcome. -/
def engineMove (s : State) : Result := outcomeOf (advanceEngine s)

/-! ### The host and its memory -/

/-- The addresses a .. a + n - 1. -/
def addressesFrom (a n : Nat) : List Nat := (List.range n).map (fun i => a + i)

/-- A frame whose payload is free bytes; its header stays. -/
def freePayload (draw : Nat) (r : TxRecord) : TxRecord :=
  { r with frame := r.frame.take headerSize ++ freeBytes draw (r.frame.length - headerSize) }

/-- The n newest frames of a log with free payloads, each with `stride` draws of its own. -/
def freePayloads (stride : Nat) : Nat → Nat → List TxRecord → List TxRecord
  | 0, _, log => log
  | _ + 1, _, [] => []
  | n + 1, draw, r :: log => freePayload draw r :: freePayloads stride n (draw + stride) log

/-- The number of frames the running SEND has offered: those that reach up to FRAG_CURSOR (41_fragmenter.md
R141, R150). -/
def State.framesOffered (s : State) : Nat := frameCount s.cfg s.frag.cursor.toNat s.fctx.align

/-- The payload bytes of the frame before the last one the running SEND has offered: a full chunk, if there is
such a frame (41_fragmenter.md R140). -/
def State.priorPayload (s : State) : Nat :=
  if 1 < s.framesOffered then chunkStep s.cfg s.fctx.align else 0

/-- TXBUF with the bytes the running SEND has read as free bytes, those of its records in the log: the last
frame's payload, over what a longer frame before it has left above TXLEN (10_state.md R43). -/
def State.freedTxBuf (s : State) : Memory :=
  (s.txBuf.writeBytes headerSize (freeBytes (s.env.draws + s.cfg.maxFrame) s.priorPayload)).writeBytes
    headerSize (freeBytes s.env.draws (s.txLen.toNat - headerSize))

/-- Every byte the running SEND has read so far becomes any value (20_memory.md R80): the payloads of the
frames it has offered, in the log and where TXBUF still holds them. -/
def State.freeBytesRead (s : State) : State :=
  { s with
    txBuf := s.freedTxBuf
    env.txLog := freePayloads s.cfg.maxFrame s.framesOffered s.env.draws s.env.txLog
    env.draws := s.env.draws + s.framesOffered * s.cfg.maxFrame }

/-- Host memory with the host's bytes stored. While a command runs the addresses are remembered, because
the command may race with them (20_memory.md R80). -/
def State.hostStored (a : Nat) (bytes : List Byte) (s : State) : State :=
  { s with
    mem := s.mem.writeBytes a bytes
    env.raced := if s.busy then addressesFrom a bytes.length ++ s.env.raced else s.env.raced }

/-- The host stores bytes into its memory. If SEND waits for the transport and they fall into its message
region, the bytes it has read are any value like those it reads from then on (20_memory.md R80: "every byte
the core reads there, for that command"). No other command waits with bytes read. -/
def hostStore (addr : Word) (bytes : List Byte) (s : State) : Result :=
  if inRange addr.toNat bytes.length then
    if s.engine = .waitTx .send ∧
        meets (addressesFrom addr.toNat bytes.length) s.fctx.base.toNat s.fctx.len.toNat = true then
      .next (s.hostStored addr.toNat bytes).freeBytesRead
    else .next (s.hostStored addr.toNat bytes)
  else .fault .hostAddressBeyondSpace

/-- What the arrival of a candidate would write to host memory, as an address and bytes. -/
def writeOfArrival (cand : List Byte) (s : State) : Option (Nat × List Byte) :=
  match s.verdict cand with
  | .accept h p =>
    if payloadEnd s.cfg h > s.rx.outCap.toNat then none
    else some (s.rx.outBase.toNat + payloadStart s.cfg h, p)
  | _ => none

/-- What the running RX_PROCESS or RX_STEP writes to host memory, if it has a candidate to process. The host's
reads meanwhile draw apart, so the command's own move reads the same candidate. -/
def writeUnderWay (s : State) : Option (Nat × List Byte) :=
  if s.engine = .run (some .rxProcess) then
    if rxRefusal s = none then writeOfArrival s.candidate s else none
  else if s.engine = .run (some .rxStep) ∨ s.engine = .waitRx .rxStep then
    match s.env.rxQueue with
    | .delivered r :: _ =>
      if rxRefusal s = none then writeOfArrival (s.storeCandidate r).candidate s else none
    | _ => none
  else none

/-- The value a racing host load finds at an address: for a byte the running command writes, either its old
value or the value written (20_memory.md R80). -/
def racingByte (m : Memory) (write : Nat × List Byte) (draw a : Nat) : Byte :=
  if write.1 ≤ a ∧ a < write.1 + write.2.length then
    if (Config.busyWord draw).getLsbD 0 then write.2.getD (a - write.1) 0 else m.hostAt a
  else m.hostAt a

/-- The host loads n bytes of its memory. While a write is under way a byte it covers is the old one or the
new one, drawn per byte (20_memory.md R80). -/
def hostLoad (addr : Word) (n : Nat) (s : State) : Result :=
  if inRange addr.toNat n then
    match writeUnderWay s with
    | none => .next { s with env.hostData := s.mem.hostBytes addr.toNat n }
    | some w =>
      .next { s with
        env.hostData := (List.range n).map
          (fun i => racingByte s.mem w (s.env.busyDraws + i) (addr.toNat + i))
        env.busyDraws := s.env.busyDraws + n }
  else .fault .hostAddressBeyondSpace

/-! ### The transport -/

/-- The transport's next answer to a TxSend becomes ready. -/
def txAnswerReady (a : TxAnswer) (s : State) : State :=
  { s with env.txAnswers := s.env.txAnswers ++ [a] }

/-- The transport's next answer to an RxRecv becomes ready. -/
def rxAnswerReady (a : RxAnswer) (s : State) : State :=
  { s with env.rxQueue := s.env.rxQueue ++ [a] }

/-! ### Reset -/

/-- A reset during the MemWrite of RX_PROCESS or RX_STEP: the output region holds the new bytes for some
prefix of the write, of any length from 0 to payload_length (70_reset_and_hazards.md R254). -/
def cutWrite (s : State) : Except Fault State :=
  match writeUnderWay s with
  | none => .ok s
  | some w =>
    (s.drawn (s.rxLen.toNat + 1)).memWrite w.1
      (w.2.take (freeUpTo (s.env.draws + s.rxLen.toNat) w.2.length))

/-- Whether the running command has an RxRecv under way, or may have had (70_reset_and_hazards.md R251). -/
def recvUnderWay (s : State) : Bool :=
  match s.engine with
  | .waitRx _ => true
  | .run (some .recv) => true
  | .run (some .rxStep) => decide (rxRefusal s = none)
  | _ => false

/-- What a reset leaves outside the block of the command it abandons (70_reset_and_hazards.md R251, R254):
- a TxSend in flight was taken by the transport or not;
- a delivery ready for an RxRecv in flight is lost, or kept for a later RxRecv; if RX_STEP had taken it, a
  prefix of its write may be in memory;
- RX_PROCESS may have written a prefix. -/
def abandonCommand (s : State) : Except Fault State :=
  match s.engine with
  | .waitTx _ =>
    .ok ({ s with
      env.txLog := settleLast (.abandoned (freeBool s.env.draws)) s.env.txLog }.drawn 1)
  | _ =>
    if recvUnderWay s then
      match s.env.rxQueue with
      | [] => .ok s
      | _ :: rest =>
        if freeBool s.env.draws then
          match cutWrite (s.drawn 1) with
          | .error f => .error f
          | .ok s => .ok { s with env.rxQueue := rest }
        else .ok (s.drawn 1)
    else cutWrite s

/-- Reset: every register takes its reset value, the engine becomes idle and the buffers hold nothing
written, all at once (70_reset_and_hazards.md R250). Host memory and the surroundings are not reset (R254). -/
def resetBlock (s : State) : Result :=
  match abandonCommand s with
  | .error f => .fault f
  | .ok t => .next (State.resetWith t.cfg t.mem { t.env with raced := [] })

end Sys2Proof.Machine
end

