-- ==== Sys2Proof/Machine/Step.lean ====
section
/-! DEFINITION. One step: the engine goes on with its command, or the next outside agent moves. -/

namespace Sys2Proof.Machine

open Sys2Proof

/-- The bytes of a transaction: the decoded instruction runs; an illegal command word is what the block
makes of it (30_encoding.md R103); anything else is not on the bus. -/
def transact (bytes : List Byte) (s : State) : Result :=
  match decode bytes with
  | .ok i => exec i s
  | .error (.illegalCommand w) => writeCmd w s
  | .error _ => .refused .notATransaction

/-- A host access at a platform address: a transaction of the block if it lies in its register space, and
nothing to the block otherwise (20_memory.md R77, 43_host_access.md R200). -/
def hostAccess (addr : Nat) (wdata : Option Word) (s : State) : Result :=
  match offsetOfAddress addr, wdata with
  | some offset, some data => exec (.regWrite (indexOfOffset offset) data) s
  | some offset, none => exec (.regRead (indexOfOffset offset)) s
  | none, _ => .next s

/-- An outside agent's move. -/
def occur (e : Event) (s : State) : Result :=
  match e with
  | .bus bytes => transact bytes s
  | .access addr wdata => hostAccess addr wdata s
  | .hostStore addr bytes => hostStore addr bytes s
  | .hostLoad addr n => hostLoad addr n s
  | .txAnswer a => .next (txAnswerReady a s)
  | .rxAnswer a => .next (rxAnswerReady a s)
  | .reset => resetBlock s

/-- One step. The engine goes on if it can, unless the next outside move overlaps it; then the next outside
move happens; with none to come nothing happens, as in a wait the transport never answers
(10_state.md R47, 93_implementation_defined.md U7). -/
def step (s : State) : Result :=
  match s.env.schedule with
  | [] => if s.engineReady then engineMove s else .next s
  | m :: rest =>
    if s.engineReady && !m.overlap then engineMove s
    else occur m.event { s with env.schedule := rest }

/-- The machine with an instruction's bits as the host's next transaction, before anything else happens. -/
def State.withFetchWord (s : State) (nbits w : Nat) : State :=
  { s with env.schedule := ⟨true, .bus (tableBytes nbits w)⟩ :: s.env.schedule }

end Sys2Proof.Machine
end

