-- ==== Sys2Proof/Machine/HostProgram.lean ====
section
/-! DEFINITION. The host program notation of 30_encoding.md section 3: statements and the transactions they
stand for. "A pseudo-instruction adds no behaviour. It is only its expansion." (R106) -/

namespace Sys2Proof.Machine

open Sys2Proof

/-- The statements of 30_encoding.md R105 and R106 that are transactions of the block. MEM is no transaction
(R105): it is the event `hostStore`. -/
inductive Stmt where
  /-- `WR <reg>, <value>` -/
  | wr (index : BitVec 12) (value : Word)
  /-- `RD <reg>` -/
  | rd (index : BitVec 12)
  /-- `CMD <mnemonic>` -/
  | cmd (c : Cmd)
  /-- One poll of `WAIT`: `RD STATUS`. The host repeats it until bit 0 reads 0. -/
  | waitPoll
  /-- `SETADDR <A>, "<text>"`, A given by the index of its first word. -/
  | setAddr (index : BitVec 12) (text : List Byte)
  /-- `WRRX <bytes>` -/
  | wrrx (bytes : List Byte)
  /-- `RUN <mnemonic>` with one poll. -/
  | run (c : Cmd)
  /-- `RESULT? <code>`; the host compares what it reads. -/
  | resultIs
  deriving DecidableEq, Repr

/-- The word indices the expansions name (10_state.md R20). -/
def cmdIndex : BitVec 12 := 0x000
def statusIndex : BitVec 12 := 0x001
def resultIndex : BitVec 12 := 0x002
def rxLenIndex : BitVec 12 := 0x01A
def txWindowIndex : BitVec 12 := 0x400
def rxWindowIndex : BitVec 12 := 0x800

/-- The words bytes are packed into, the last padded with 0x00 (10_state.md R22, R45). -/
def packedWord (bytes : List Byte) (k : Nat) : Word :=
  BitVec.ofNat 32 (leNat (slice bytes (4 * k) (4 * k + 4)))

/-- The transactions a statement stands for, in order (30_encoding.md R105, R106). -/
def Stmt.expand : Stmt → List Instr
  | .wr index value => [.regWrite index value]
  | .rd index => [.regRead index]
  | .cmd c => [.regWrite cmdIndex c.word]
  | .waitPoll => [.regRead statusIndex]
  | .setAddr index text =>
    (List.range 5).map (fun j =>
      .regWrite (index + BitVec.ofNat 12 j) ((Addr.ofList text).word j))
  | .wrrx bytes =>
    (List.range ((bytes.length + 3) / 4)).map (fun k =>
      .regWrite (rxWindowIndex + BitVec.ofNat 12 k) (packedWord bytes k))
    ++ [.regWrite rxLenIndex (BitVec.ofNat 32 bytes.length)]
  | .run c => [.regWrite cmdIndex c.word, .regRead statusIndex]
  | .resultIs => [.regRead resultIndex]

end Sys2Proof.Machine
end

