-- ==== Sys2Proof/Safety.lean ====
section
/-! DEFINITION. What counts as a good state of the machine, in the terms claims use. -/

namespace Sys2Proof.Machine

open Sys2Proof

/-- The block takes a command and runs it without an outside agent moving meanwhile: BUSY = 0
(10_state.md R25) and no overlapping move is next. -/
def State.Ready (s : State) : Prop := s.engine = .idle ∧ s.overlapped = false

/-- No host store has raced with the running command (20_memory.md R80). -/
def State.Unraced (s : State) : Prop := s.env.raced = []

/-- The command an instruction issues, if it writes a command word to CMD (30_encoding.md R101). -/
def commandIssued : Instr → Option Cmd
  | .encode => some .encode
  | .decode => some .decode
  | .fragStart => some .fragStart
  | .fragNext => some .fragNext
  | .xmit => some .xmit
  | .send => some .send
  | .rxInit => some .rxInit
  | .recv => some .recv
  | .rxProcess => some .rxProcess
  | .rxStep => some .rxStep
  | .regRead _ => none
  | .regWrite index data => if index = 0 then commandOf data else none

/-- The instruction writes CMD, with a command word or an illegal one. -/
def writesCmd : Instr → Bool
  | .regRead _ => false
  | .regWrite index _ => decide (index = 0)
  | _ => true

/-- Instructions one after another, stopping at the first fault or refusal. -/
def execAll : List Instr → State → Result
  | [], s => .next s
  | i :: is, s =>
    match exec i s with
    | .next t => execAll is t
    | .fault f => .fault f
    | .refused r => .refused r

/-- A byte sequence RXBUF[0 ..< RXLEN] may be read as: every byte written since reset at its place, any
value at the others (10_state.md R44, 93_implementation_defined.md U1). -/
def State.Shows (s : State) (cand : List Byte) : Prop :=
  cand.length = s.rxLen.toNat ∧
  ∀ i b, i < s.rxLen.toNat → i < s.cfg.maxFrame → s.rxBuf.readByte i = some b → cand[i]? = some b

/-- The frame a TxSend of the staged frame offers: TXLEN bytes, every byte written since reset at its place
(10_state.md R43). -/
def State.Stages (s : State) (frame : List Byte) : Prop :=
  frame.length = s.txLen.toNat ∧
  ∀ i b, i < s.txLen.toNat → i < s.cfg.maxFrame → s.txBuf.readByte i = some b → frame[i]? = some b

/-! ### The register map (10_state.md R20 to R40), by byte offset -/

/-- Word j of an address: byte 4j + i in bits [8i + 7 : 8i], and zero past byte 17 (10_state.md R22). -/
def addressWord (a : Addr) (j : Nat) : Word :=
  a.bytes.getD (4 * j + 3) 0 ++ a.bytes.getD (4 * j + 2) 0 ++ a.bytes.getD (4 * j + 1) 0
    ++ a.bytes.getD (4 * j) 0

/-- The five words of an address register group at a byte offset. -/
def addressRows (offset : Nat) (a : Addr) : List (Nat × Word) :=
  (List.range 5).map (fun j => (offset + 4 * j, addressWord a j))

/-- What each register of 10_state.md R20 reads as while BUSY = 0, but for the buffer windows. -/
def registerRows (s : State) : List (Nat × Word) :=
  [(0x000, 0),
    (0x004, 0#24 ++ s.status.lastDrop.bits ++ BitVec.ofBool s.status.txValid
      ++ BitVec.ofBool s.status.fragActive ++ s.status.rxState.bits
      ++ BitVec.ofBool s.status.cmdOvr ++ 0#1),
    (0x008, 0#24 ++ s.result.code),
    (0x00C, 0#30 ++ BitVec.ofBool s.regs.align ++ BitVec.ofBool s.regs.localValid),
    (0x010, 0#16 ++ s.regs.protocolId), (0x014, 0#24 ++ s.regs.frameType)]
  ++ addressRows 0x018 s.regs.localAddr ++ addressRows 0x030 s.regs.remoteAddr
  ++ [(0x048, s.regs.msgBase), (0x04C, s.regs.msgLen), (0x050, s.regs.outBase),
    (0x054, s.regs.outCap), (0x058, 0#16 ++ s.frag.id), (0x05C, s.frag.cursor),
    (0x060, s.frag.offblk), (0x064, s.txLen), (0x068, s.rxLen), (0x06C, s.rx.total),
    (0x070, s.rx.outBase), (0x074, s.rx.outCap)]
  ++ addressRows 0x080 s.hdr.dest ++ addressRows 0x098 s.hdr.src
  ++ [(0x0B0, 0#24 ++ s.hdr.type), (0x0B4, 0#16 ++ s.hdr.protocolId),
    (0x0B8, s.hdr.payloadLength), (0x0BC, 0#16 ++ s.hdr.fragmentId),
    (0x0C0, 0#16 ++ s.hdr.offsetField), (0x0C4, s.hdr.checksum)]

/-- The word index of a byte offset. -/
def indexAt (offset : Nat) : BitVec 12 := BitVec.ofNat 12 (offset / 4)

/-- The bits a host write keeps, of each RW register but RXLEN and the RXBUF window (10_state.md R21 to R33). -/
def writableMasks : List (Nat × Word) :=
  [(0x00C, 0x3), (0x010, 0xFFFF), (0x014, 0xFF),
    (0x018, 0xFFFFFFFF), (0x01C, 0xFFFFFFFF), (0x020, 0xFFFFFFFF), (0x024, 0xFFFFFFFF),
    (0x028, 0xFFFF),
    (0x030, 0xFFFFFFFF), (0x034, 0xFFFFFFFF), (0x038, 0xFFFFFFFF), (0x03C, 0xFFFFFFFF),
    (0x040, 0xFFFF),
    (0x048, 0xFFFFFFFF), (0x04C, 0xFFFFFFFF), (0x050, 0xFFFFFFFF), (0x054, 0xFFFFFFFF)]
  ++ [(0x080, 0xFFFFFFFF), (0x084, 0xFFFFFFFF), (0x088, 0xFFFFFFFF), (0x08C, 0xFFFFFFFF),
    (0x090, 0xFFFF),
    (0x098, 0xFFFFFFFF), (0x09C, 0xFFFFFFFF), (0x0A0, 0xFFFFFFFF), (0x0A4, 0xFFFFFFFF),
    (0x0A8, 0xFFFF),
    (0x0B0, 0xFF), (0x0B4, 0xFFFF), (0x0B8, 0xFFFFFFFF), (0x0BC, 0xFFFF), (0x0C0, 0xFFFF),
    (0x0C4, 0xFFFFFFFF)]

/-- The read-only registers (10_state.md R20), by byte offset. -/
def readOnlyOffsets : List Nat :=
  [0x008, 0x058, 0x05C, 0x060, 0x064, 0x06C, 0x070, 0x074]

/-- The byte offsets of 10_state.md R20 below the buffer windows. -/
def namedOffsets : List Nat :=
  [0x000, 0x004, 0x008, 0x00C, 0x010, 0x014, 0x018, 0x01C, 0x020, 0x024, 0x028,
    0x030, 0x034, 0x038, 0x03C, 0x040, 0x048, 0x04C, 0x050, 0x054, 0x058, 0x05C, 0x060, 0x064,
    0x068, 0x06C, 0x070, 0x074]
  ++ [0x080, 0x084, 0x088, 0x08C, 0x090, 0x098, 0x09C, 0x0A0, 0x0A4, 0x0A8,
    0x0B0, 0x0B4, 0x0B8, 0x0BC, 0x0C0, 0x0C4]

/-! ### The frames of a message (41_fragmenter.md R140 to R142) -/

/-- plen_i = min(step, L - i × step) (41_fragmenter.md R140). -/
def chunkLen (c : Config) (f : Fctx) (i : Nat) : Nat :=
  min (chunkStep c f.align) (f.len.toNat - i * chunkStep c f.align)

/-- n(L, align) of a latched message. -/
def messageFrames (c : Config) (f : Fctx) : Nat := frameCount c f.len.toNat f.align

/-- The header of frame i (41_fragmenter.md R141, R142): offblk_i = i × K, more_i = 1 if i < n - 1. -/
def messageHeader (c : Config) (f : Fctx) (i : Nat) : Header where
  dest := f.remoteAddr
  src := f.localAddr
  type := f.type
  protocolId := f.proto
  payloadLength := BitVec.ofNat 32 (chunkLen c f i)
  fragmentId := f.fragid
  offsetField :=
    BitVec.ofBool (decide (i + 1 < messageFrames c f)) ++ BitVec.ofNat 15 (i * blocksPerChunk c)
  checksum := 0

/-- Frame i: its header and the message bytes from i × step (41_fragmenter.md R142). -/
def messageFrame (c : Config) (f : Fctx) (m : Memory) (i : Nat) : List Byte :=
  packHeader c.wireOrder (messageHeader c f i)
    ++ m.hostBytes (f.base.toNat + i * chunkStep c f.align) (chunkLen c f i)

/-- The answer of a transport that takes frame i in full. -/
def fullAnswer (c : Config) (f : Fctx) (i : Nat) : TxAnswer := .accepted (headerSize + chunkLen c f i)

/-! ### One arrival (42_reassembler.md R174) -/

/-- What RX_PROCESS answers in state s when its candidate is cand, `draws` counting the free values taken:
the pseudocode of 42_reassembler.md R174 from `c <- classify(...)` on, with R173's filter written out. -/
def ArrivalAnswers (s : State) (cand : List Byte) (draws : Nat) (o : Result) : Prop :=
  match decodeFrame s.cfg.wireOrder cand with
  | none =>
    o = .next { s with
      status.lastDrop := .none
      result := .malformedFrame
      engine := .idle
      env := { s.env with draws := draws, raced := [] } }
  | some (h, p) =>
    if h.protocolId ≠ s.regs.protocolId then
      o = .next { s with
        status.lastDrop := .protocolMismatch
        result := .incomplete
        engine := .idle
        env := { s.env with draws := draws, raced := [] } }
    else if h.src = s.regs.localAddr then
      o = .next { s with
        status.lastDrop := .loopbackFrame
        result := .incomplete
        engine := .idle
        env := { s.env with draws := draws, raced := [] } }
    else if h.dest ≠ s.regs.localAddr then
      o = .next { s with
        status.lastDrop := .foreignDestination
        result := .incomplete
        engine := .idle
        env := { s.env with draws := draws, raced := [] } }
    else if h.offblk * s.cfg.blockSize + h.payloadLength.toNat > s.rx.outCap.toNat then
      o = .next { s with
        status.lastDrop := .none
        status.rxState := .aborted
        result := .bufferOverflow
        engine := .idle
        env := { s.env with draws := draws, raced := [] } }
    else if h.more = true then
      o = .next { s with
        status.lastDrop := .none
        mem := s.mem.writeBytes (s.rx.outBase.toNat + h.offblk * s.cfg.blockSize) p
        result := .incomplete
        engine := .idle
        env := { s.env with draws := draws, raced := [] } }
    else
      o = .next { s with
        status.lastDrop := .none
        status.rxState := .complete
        mem := s.mem.writeBytes (s.rx.outBase.toNat + h.offblk * s.cfg.blockSize) p
        rx.total := BitVec.ofNat 32 (h.offblk * s.cfg.blockSize + h.payloadLength.toNat)
        result := .complete
        engine := .idle
        env := { s.env with draws := draws, raced := [] } }

/-- The machine's invariant. -/
structure State.Inv (s : State) : Prop where
  /-- Host memory is in canonical form and lies in its 2^32 addresses (20_memory.md R70). -/
  mem_wf : s.mem.wf = true
  mem_below : s.mem.below hostSpace = true
  /-- The buffers are in canonical form and hold MAX_FRAME_SIZE bytes (10_state.md R43, R44). -/
  txBuf_wf : s.txBuf.wf = true
  txBuf_below : s.txBuf.below s.cfg.maxFrame = true
  rxBuf_wf : s.rxBuf.wf = true
  rxBuf_below : s.rxBuf.below s.cfg.maxFrame = true
  /-- TXLEN and RXLEN are at most MAX_FRAME_SIZE (10_state.md R37, R38). -/
  txLen_le : s.txLen.toNat ≤ s.cfg.maxFrame
  rxLen_le : s.rxLen.toNat ≤ s.cfg.maxFrame
  /-- TX_VALID = 1 only when TXBUF[0 ..< TXLEN] has been written (93_implementation_defined.md U1). -/
  staged : s.status.txValid = true → ∀ i < s.txLen.toNat, (s.txBuf.readByte i).isSome = true
  /-- FRAG_ID shows FCTX.fragid (10_state.md R34, R41). -/
  fragId_shown : s.frag.id = s.fctx.fragid
  /-- A latched message is in range and not too long (41_fragmenter.md R143). -/
  message_inRange : inRange s.fctx.base.toNat s.fctx.len.toNat = true
  message_fits : tooLong s.cfg s.fctx.len.toNat s.fctx.align = false
  cursor_le : s.frag.cursor.toNat ≤ s.fctx.len.toNat
  /-- Of an active message a whole number k < n of full chunks has been produced, and the next chunk's
  offset is k × K (41_fragmenter.md R141). -/
  progress : s.status.fragActive = true →
    ∃ k, k < frameCount s.cfg s.fctx.len.toNat s.fctx.align ∧
      s.frag.cursor.toNat = k * chunkStep s.cfg s.fctx.align ∧
      s.frag.offblk.toNat = k * blocksPerChunk s.cfg
  /-- The latched output region is in range, and RX_TOTAL within its capacity (42_reassembler.md R171, R174). -/
  output_inRange : inRange s.rx.outBase.toNat s.rx.outCap.toNat = true
  total_le : s.rx.total.toNat ≤ s.rx.outCap.toNat
  /-- A command in WAIT_TX has a staged frame, offered and not yet answered (10_state.md R47). -/
  waitTx_staged : s.engine.phase = .waitTx → s.status.txValid = true
  waitTx_offered : s.engine.phase = .waitTx → s.env.txLog.head?.map (·.fate) = some .pending
  /-- "A TxSend does not start until the previous TxSend has answered" (20_memory.md R81): only the frame
  last offered can be without an answer, and only in WAIT_TX. -/
  one_inFlight : ∀ r ∈ s.env.txLog.tail, r.fate ≠ .pending
  none_inFlight : s.engine.phase ≠ .waitTx → ∀ r ∈ s.env.txLog, r.fate ≠ .pending
  /-- RX_STEP waits only in AWAITING_FRAME with a valid local address (42_reassembler.md R176). -/
  rxStep_armed : s.engine = .waitRx .rxStep →
    s.regs.localValid = true ∧ s.status.rxState = .awaitingFrame
  /-- Races are remembered only while a command runs. -/
  idle_unraced : s.engine = .idle → s.env.raced = []

end Sys2Proof.Machine
end

