-- ==== Sys2Proof/Certificates/Slice0/Obligations.lean ====
section
/-! DEFINITION. The statements for the provers. A statement about what a command does is about a block
that is `Ready`: BUSY = 0 and no outside agent moves before the command's end. What a command does
otherwise is stated by CommandsWrittenWhileBusyAreLost and OverlappedCommandsKeepBusy. -/

open Sys2Proof Sys2Proof.Machine

/-! ### The step, reset and the invariant -/

/-- When the next outside move is a transaction whose bytes decode to i, and the engine cannot go on first,
the step is exec of i with the move taken; so it is after `withFetchWord`. A word that is no command is a
write of that word to CMD (30_encoding.md R103). The schedule and its place for a program, the moves that
overlap a command and the bytes of a transaction are the model's choices (assumption log 3, 6, 12): the block
fetches nothing (10_state.md R23), and no rule of the spec says what a step is. -/
def Obligations.StepRunsTheDecodedTransaction : Prop :=
  (∀ (s : State) (m : Move) (rest : List Move) (bytes : List Byte) (i : Instr),
    s.env.schedule = m :: rest → m.event = .bus bytes → (s.engineReady = false ∨ m.overlap = true) →
    decode bytes = .ok i → step s = exec i { s with env.schedule := rest }) ∧
  (∀ (s : State) (m : Move) (rest : List Move) (bytes : List Byte) (w : Word),
    s.env.schedule = m :: rest → m.event = .bus bytes → (s.engineReady = false ∨ m.overlap = true) →
    decode bytes = .error (.illegalCommand w) →
    step s = exec (.regWrite 0 w) { s with env.schedule := rest }) ∧
  (∀ (s : State) (nbits w : Nat) (i : Instr),
    decodeTableWord nbits w = some i → step (s.withFetchWord nbits w) = exec i s)

/-- The reset values of 70_reset_and_hazards.md R252. -/
def Obligations.ResetHoldsTheListedValues : Prop :=
  State.reset.engine.phase = .idle ∧ State.reset.busy = false ∧
  State.reset.status.cmdOvr = false ∧ State.reset.status.fragActive = false ∧
  State.reset.status.txValid = false ∧ State.reset.status.rxState = .idle ∧
  State.reset.status.lastDrop = .none ∧ State.reset.result.code = 0x00 ∧
  State.reset.regs.localValid = false ∧ State.reset.regs.align = false ∧
  State.reset.regs.protocolId = 0 ∧ State.reset.regs.frameType = 0 ∧
  State.reset.regs.localAddr.bytes = List.replicate 18 0 ∧
  State.reset.regs.remoteAddr.bytes = List.replicate 18 0 ∧
  State.reset.regs.msgBase = 0 ∧ State.reset.regs.msgLen = 0 ∧
  State.reset.regs.outBase = 0 ∧ State.reset.regs.outCap = 0 ∧
  State.reset.frag = ⟨0, 0, 0⟩ ∧ State.reset.txLen = 0 ∧ State.reset.rxLen = 0 ∧
  State.reset.rx = ⟨0, 0, 0⟩ ∧
  State.reset.hdr = ⟨Addr.zero, Addr.zero, 0, 0, 0, 0, 0, 0⟩ ∧
  State.reset.fctx = ⟨Addr.zero, Addr.zero, 0, 0, 0, 0, false, 0⟩ ∧
  Addr.zero.bytes = List.replicate 18 0 ∧
  State.reset.txBuf = [] ∧ State.reset.rxBuf = [] ∧
  State.reset.readTarget .cmd = 0

/-- The invariant holds after reset. -/
def Obligations.ResetMeetsTheInvariant : Prop := State.reset.Inv

/-- Every step that answers a next state keeps the invariant, from every state that meets it. -/
def Obligations.EveryStepKeepsTheInvariant : Prop :=
  ∀ s t : State, s.Inv → step s = .next t → t.Inv

/-- A reset event, from every state that meets the invariant, gives a next state: the block of the same
configuration at its reset values. Host memory keeps every byte outside the output region of the running
RX_PROCESS or RX_STEP (70_reset_and_hazards.md R250, R254); without a racing host store it is unchanged, or
holds the new bytes for a prefix of the write under way. The transport's side stays open (R251): every frame
offered stays, one without an answer has been taken or not, and the delivery at the head may be lost from a
command that takes deliveries. Nothing else of the surroundings changes but that no race is left and draws
are taken. How the outcomes are drawn is assumption log 15. -/
def Obligations.ResetEventResetsTheBlockOnly : Prop :=
  ∀ s : State, s.Inv → ∃ t : State,
    occur .reset s = .next t ∧ t = State.resetWith s.cfg t.mem t.env ∧
    t.env = { s.env with
      txLog := t.env.txLog
      rxQueue := t.env.rxQueue
      raced := []
      draws := t.env.draws } ∧
    t.env.txLog.length = s.env.txLog.length ∧
    (∀ (k : Nat) (r : TxRecord), s.env.txLog[k]? = some r →
      if r.fate = .pending then ∃ taken, t.env.txLog[k]? = some { r with fate := .abandoned taken }
      else t.env.txLog[k]? = some r) ∧
    (t.env.rxQueue = s.env.rxQueue ∨
      ((s.engine.op = some .recv ∨ s.engine.op = some .rxStep) ∧
        ∃ d, s.env.rxQueue = d :: t.env.rxQueue)) ∧
    (∀ a, a < s.rx.outBase.toNat ∨ s.rx.outBase.toNat + s.rx.outCap.toNat ≤ a →
      t.mem.readByte a = s.mem.readByte a) ∧
    (s.engine.op ≠ some .rxProcess → s.engine.op ≠ some .rxStep → t.mem = s.mem) ∧
    (s.env.raced = [] → t.mem = s.mem ∨ ∃ a p k, writeUnderWay s = some (a, p) ∧ k ≤ p.length ∧
      t.mem = s.mem.writeBytes a (p.take k))

/-- The design-time parameters never change. -/
def Obligations.NoStepChangesTheConfiguration : Prop :=
  ∀ s t : State, step s = .next t → t.cfg = s.cfg

/-! ### Encoding -/

/-- The command words of 30_encoding.md R101 and transactions of 95_test_vectors.md section 0, in the opcode
table's numbering. -/
def Obligations.TableWordsDecodeToTheirInstructions : Prop :=
  decodeTableWord 32 0x00000001 = some .encode ∧
  decodeTableWord 32 0x00000002 = some .decode ∧
  decodeTableWord 32 0x00000010 = some .fragStart ∧
  decodeTableWord 32 0x00000011 = some .fragNext ∧
  decodeTableWord 32 0x00000012 = some .xmit ∧
  decodeTableWord 32 0x00000013 = some .send ∧
  decodeTableWord 32 0x00000020 = some .rxInit ∧
  decodeTableWord 32 0x00000021 = some .recv ∧
  decodeTableWord 32 0x00000022 = some .rxProcess ∧
  decodeTableWord 32 0x00000023 = some .rxStep ∧
  decodeTableWord 48 0x000100000000 = some (.regRead 0x001) ∧
  decodeTableWord 48 0x100300000003 = some (.regWrite 0x003 0x00000003) ∧
  decodeTableWord 32 0x00000003 = none ∧ decodeTableWord 32 0x00000110 = none

/-- Decoding the encoding of any instruction gives it back, with every index and data word. The bytes an
instruction is laid out in are the model's choice (assumption log 12). -/
def Obligations.DecodeOfEncodeIsTheInstruction : Prop :=
  ∀ i : Instr, i.wf = true → decode (encode i) = .ok i

/-- The other direction: bytes that decode are the encoding of what they decode to, but for the data bits
of a read, which the opcode table's mask leaves out (assumption log 11, 12: the model's). -/
def Obligations.DecodedBytesAreTheEncoding : Prop :=
  ∀ (bytes : List Byte) (i : Instr), decode bytes = .ok i →
    (∃ index, i = .regRead index ∧ bytes.length = 6 ∧
      bytes.drop 4 = (encode i).drop 4) ∨ bytes = encode i

/-- pack16, pack32 and their inverses, in both byte orders: byte i of v is v[8i + 7 : 8i] (LE), or
v[8(n - 1 - i) + 7 : 8(n - 1 - i)] (BE), and unpack(pack(v)) = v; this hardware uses LE (30_encoding.md R91). -/
def Obligations.PackedIntegersUnpack : Prop :=
  State.reset.cfg.wireOrder = .le ∧
  (∀ v : Half, pack16 .le v = [v.extractLsb' 0 8, v.extractLsb' 8 8]) ∧
  (∀ v : Half, pack16 .be v = [v.extractLsb' 8 8, v.extractLsb' 0 8]) ∧
  (∀ v : Word, pack32 .le v =
    [v.extractLsb' 0 8, v.extractLsb' 8 8, v.extractLsb' 16 8, v.extractLsb' 24 8]) ∧
  (∀ v : Word, pack32 .be v =
    [v.extractLsb' 24 8, v.extractLsb' 16 8, v.extractLsb' 8 8, v.extractLsb' 0 8]) ∧
  (∀ (o : WireOrder) (v : Half), unpack16 o (pack16 o v) = v) ∧
  (∀ (o : WireOrder) (v : Word), unpack32 o (pack32 o v) = v)

/-- unpack_header(s), for a sequence of at least 51 bytes, takes each field from its bytes and reads only
s[0 ..< 51]; and "For every H, unpack_header(pack_header(H)) = H" (40_codec.md R121). -/
def Obligations.UnpackedHeaderOfAPackedHeaderIsTheHeader : Prop :=
  (∀ (o : WireOrder) (s : List Byte), 51 ≤ s.length →
    (unpackHeader o s).dest.bytes = s.take 18 ∧
    (unpackHeader o s).src.bytes = (s.drop 18).take 18 ∧
    some (unpackHeader o s).type = s[36]? ∧
    (unpackHeader o s).protocolId = unpack16 o ((s.drop 37).take 2) ∧
    (unpackHeader o s).payloadLength = unpack32 o ((s.drop 39).take 4) ∧
    (unpackHeader o s).fragmentId = unpack16 o ((s.drop 43).take 2) ∧
    (unpackHeader o s).offsetField = unpack16 o ((s.drop 45).take 2) ∧
    (unpackHeader o s).checksum = unpack32 o ((s.drop 47).take 4) ∧
    unpackHeader o (s.take 51) = unpackHeader o s) ∧
  (∀ (o : WireOrder) (h : Header) (rest : List Byte),
    (packHeader o h).length = 51 ∧ unpackHeader o (packHeader o h ++ rest) = h)

/-- The laws of 40_codec.md R125: decode(encode(H, p)) = (H, p), trailing bytes being ignored (R123);
decode(s) = (H, p) implies encode(H, p) = s[0 ..< 51 + H.payload_length]; and decode(s) = MALFORMED exactly
when len(s) < 51, or len(s) ≥ 51 and unpack32(s[39 ..< 43]) > len(s) - 51. -/
def Obligations.EncodeAndDecodeOfFramesAreInverse : Prop :=
  (∀ (o : WireOrder) (h : Header) (p extra : List Byte), p.length = h.payloadLength.toNat →
    (encodeFrame o h p).length = 51 + h.payloadLength.toNat ∧
    decodeFrame o (encodeFrame o h p) = some (h, p) ∧
    decodeFrame o (encodeFrame o h p ++ extra) = some (h, p)) ∧
  (∀ (o : WireOrder) (s : List Byte) (h : Header) (p : List Byte), decodeFrame o s = some (h, p) →
    p.length = h.payloadLength.toNat ∧
    encodeFrame o h p = s.take (51 + h.payloadLength.toNat)) ∧
  (∀ (o : WireOrder) (s : List Byte), decodeFrame o s = none ↔
    s.length < 51 ∨ (51 ≤ s.length ∧ (unpack32 o (slice s 39 43)).toNat > s.length - 51))

/-! ### Host access -/

/-- A CMD word that is not one of the ten, written while BUSY = 0, sets BUSY for the command, runs nothing and
raises ILLEGAL_COMMAND; no register but RESULT and BUSY changes (30_encoding.md R103). BUSY is seen where an
outside move overlaps the command; the engine's move then ends it as it would have ended at once. That
overlap is the model's choice (assumption log 6), and that such a command latches no engine.op its reading of
43_host_access.md R203 (assumption log 5). -/
def Obligations.IllegalCommandWordsRaiseIllegalCommand : Prop :=
  ∀ (s : State) (w : Word), (∀ c : Cmd, w ≠ c.word) →
    (s.Ready → exec (.regWrite 0 w) s =
      .next { s with result := .illegalCommand, engine := .idle, env.raced := [] }) ∧
    (s.engine = .idle → s.overlapped = true → ∃ t : State, exec (.regWrite 0 w) s = .next t ∧
      t.busy = true ∧ t = { s with engine := .run none, env.raced := [] }) ∧
    (s.Ready → engineMove { s with engine := .run none, env.raced := [] } =
      exec (.regWrite 0 w) s)

/-- A REG_WRITE of a command word to CMD is that command, whatever the state (30_encoding.md R101,
43_host_access.md R203). -/
def Obligations.ACommandWordWrittenToCmdIsTheCommand : Prop :=
  ∀ (s : State) (c : Cmd), exec (.regWrite 0 c.word) s = exec (Instr.ofCmd c) s

/-- A CMD write while BUSY = 1 issues no command, sets CMD_OVR and changes nothing else (43_host_access.md R204). -/
def Obligations.CommandsWrittenWhileBusyAreLost : Prop :=
  ∀ s : State, s.busy = true →
    (∀ c : Cmd, exec (Instr.ofCmd c) s = .next { s with status.cmdOvr := true }) ∧
    (∀ w : Word, exec (.regWrite 0 w) s = .next { s with status.cmdOvr := true })

/-- A command whose CMD write is followed by an overlapping move is accepted: BUSY is 1 and nothing else of
the block changes (43_host_access.md R203). The engine's move then ends it as it would have ended at once.
That an overlapping move lands before any of the command's work, and that the engine then goes on as at once,
is the model's choice (assumption log 6). -/
def Obligations.OverlappedCommandsKeepBusy : Prop :=
  (∀ (s : State) (c : Cmd), s.engine = .idle → s.overlapped = true → ∃ t : State,
    exec (Instr.ofCmd c) s = .next t ∧ t.busy = true ∧
    t = { s with engine := .run (some c), env.raced := [] }) ∧
  (∀ (s : State) (c : Cmd), s.Ready →
    engineMove { s with engine := .run (some c), env.raced := [] } = exec (Instr.ofCmd c) s)

/-- A write of STATUS clears CMD_OVR if data[1] = 1; every other bit is ignored, at any time
(43_host_access.md R202, R205). -/
def Obligations.StatusWritesClearOnlyTheOverrunFlag : Prop :=
  ∀ (s : State) (data : Word),
    (data.getLsbD 1 = true →
      exec (.regWrite 1 data) s = .next { s with status.cmdOvr := false }) ∧
    (data.getLsbD 1 = false → exec (.regWrite 1 data) s = .next s)

/-- While BUSY = 1, a write to a target other than CMD and STATUS is ignored, and a STATUS write performs
its W1C effect on CMD_OVR (43_host_access.md R205). -/
def Obligations.WritesWhileBusyChangeOnlyTheOverrunFlag : Prop :=
  ∀ (s : State) (index : BitVec 12) (data : Word), s.busy = true →
    (index ≠ 0 → index ≠ 1 → exec (.regWrite index data) s = .next s) ∧
    (data.getLsbD 1 = true →
      exec (.regWrite 1 data) s = .next { s with status.cmdOvr := false }) ∧
    (data.getLsbD 1 = false → exec (.regWrite 1 data) s = .next s)

/-- While BUSY = 1, a read of STATUS shows the exact BUSY and CMD_OVR bits, and every read changes nothing
of the block (43_host_access.md R201). What the other bits read is free; that CMD and reserved offsets
read 0 then too is the model's reading (assumption log 10), and the host's draws while BUSY = 1 have a count of
their own (assumption log 8). -/
def Obligations.ReadsWhileBusyShowBusyAndTheOverrunFlag : Prop :=
  ∀ (s : State) (index : BitVec 12), s.busy = true → ∃ (v : Word) (n : Nat),
    exec (.regRead index) s =
      .next { s with env := { s.env with busData := v, busyDraws := n } } ∧
    (index = 1 → v.getLsbD 0 = true ∧ v.getLsbD 1 = s.status.cmdOvr)

/-- While BUSY = 0, each register of 10_state.md R20 reads as its fields, and the read changes nothing of the
block (43_host_access.md R201). -/
def Obligations.IdleReadsReturnTheRegisterMap : Prop :=
  ∀ (s : State) (offset : Nat) (v : Word), s.engine = .idle → (offset, v) ∈ registerRows s →
    ∃ n : Nat, exec (.regRead (indexAt offset)) s =
      .next { s with env := { s.env with busData := v, draws := n } }

/-- Every word index that 10_state.md R20 does not name, up to 0xFFF, reads 0 and ignores writes
(10_state.md R46, 30_encoding.md R102). That it reads 0 while BUSY = 1 too is the model's reading (assumption
log 10). -/
def Obligations.ReservedOffsetsReadZeroAndIgnoreWrites : Prop :=
  ∀ (s : State) (index : BitVec 12) (data : Word),
    4 * index.toNat ∉ namedOffsets → (index.toNat < 0x400 ∨ 0xC00 ≤ index.toNat) →
    exec (.regWrite index data) s = .next s ∧
    ∃ n : Nat, exec (.regRead index) s =
      .next { s with env := { s.env with busData := 0, busyDraws := n } }

/-- While BUSY = 0, a write of a RW register keeps the bits of its fields, drops the RAZ/WI bits, and leaves
every other register and everything else alone; a write of a RO register is ignored
(43_host_access.md R202). -/
def Obligations.WrittenRegistersReadBackUnderTheirMask : Prop :=
  ∀ (s : State) (data : Word), s.engine = .idle →
    (∀ offset mask, (offset, mask) ∈ writableMasks → ∃ t : State,
      exec (.regWrite (indexAt offset) data) s = .next t ∧
      (offset, data &&& mask) ∈ registerRows t ∧
      (∀ row ∈ registerRows s, row.1 ≠ offset → row ∈ registerRows t) ∧
      t = { s with regs := t.regs, hdr := t.hdr }) ∧
    (∀ offset ∈ readOnlyOffsets, exec (.regWrite (indexAt offset) data) s = .next s)

/-- Window word k holds bytes 4k .. 4k + 3, the first in bits [7:0]; a byte at or above MAX_FRAME_SIZE reads
0 and is not written; the TXBUF window ignores writes (10_state.md R45). -/
def Obligations.WindowWordsPackBytesLowFirst : Prop :=
  ∀ (s : State) (k : Nat) (data : Word), s.engine = .idle → k < 0x400 →
    (∃ t : State, exec (.regWrite (BitVec.ofNat 12 (0x800 + k)) data) s = .next t ∧
      t = { s with rxBuf := t.rxBuf } ∧
      (∀ i, i < 4 → 4 * k + i < s.cfg.maxFrame →
        t.rxBuf.readByte (4 * k + i) = some (data.extractLsb' (8 * i) 8)) ∧
      (∀ j, j < 4 * k ∨ 4 * k + 4 ≤ j ∨ s.cfg.maxFrame ≤ j →
        t.rxBuf.readByte j = s.rxBuf.readByte j)) ∧
    exec (.regWrite (BitVec.ofNat 12 (0x400 + k)) data) s = .next s ∧
    (∃ (v : Word) (n : Nat), exec (.regRead (BitVec.ofNat 12 (0x800 + k))) s =
        .next { s with env := { s.env with busData := v, draws := n } } ∧
      (∀ i b, i < 4 → 4 * k + i < s.cfg.maxFrame → s.rxBuf.readByte (4 * k + i) = some b →
        v.extractLsb' (8 * i) 8 = b) ∧
      (∀ i, i < 4 → s.cfg.maxFrame ≤ 4 * k + i → v.extractLsb' (8 * i) 8 = 0)) ∧
    (∃ (v : Word) (n : Nat), exec (.regRead (BitVec.ofNat 12 (0x400 + k))) s =
        .next { s with env := { s.env with busData := v, draws := n } } ∧
      (∀ i b, i < 4 → 4 * k + i < s.cfg.maxFrame → s.txBuf.readByte (4 * k + i) = some b →
        v.extractLsb' (8 * i) 8 = b) ∧
      (∀ i, i < 4 → s.cfg.maxFrame ≤ 4 * k + i → v.extractLsb' (8 * i) 8 = 0))

/-- A host write of RXLEN greater than MAX_FRAME_SIZE is ignored; any other is stored (10_state.md R38). -/
def Obligations.RxlenWritesAreBounded : Prop :=
  ∀ (s : State) (data : Word), s.engine = .idle →
    (data.toNat ≤ s.cfg.maxFrame →
      exec (.regWrite 0x01A data) s = .next { s with rxLen := data }) ∧
    (s.cfg.maxFrame < data.toNat → exec (.regWrite 0x01A data) s = .next s)

/-- Bits [1:0] of a bus offset are ignored: a host access at BLOCK_BASE + 4k + b is the transaction of word
index k, for every b < 4 (43_host_access.md R200, 20_memory.md R77). That an
access outside the 16 KiB changes nothing is the model's choice (assumption log 18). -/
def Obligations.BusOffsetLowBitsAreIgnored : Prop :=
  (∀ (s : State) (k b : Nat) (data : Word), k < 2 ^ 12 → b < 4 →
    occur (.access (Config.blockBase + (4 * k + b)) (some data)) s =
      exec (.regWrite (BitVec.ofNat 12 k) data) s ∧
    occur (.access (Config.blockBase + (4 * k + b)) none) s =
      exec (.regRead (BitVec.ofNat 12 k)) s) ∧
  (∀ (s : State) (addr : Nat) (w : Option Word),
    addr < Config.blockBase ∨ Config.blockBase + 0x4000 ≤ addr →
    occur (.access addr w) s = .next s)

/-- The expansions of SETADDR and WRRX do what the pseudo-instructions name (30_encoding.md R106): the five
writes set the address to the text padded with 00 bytes, and the window writes and the write of RXLEN hand
the block the byte list as its candidate. That a statement is a list of transactions is assumption log 19. -/
def Obligations.SetaddrAndWrrxHandOverTheirBytes : Prop :=
  (∀ (s : State) (text : List Byte), s.engine = .idle →
    execAll (Stmt.setAddr (indexAt 0x018) text).expand s =
      .next { s with regs.localAddr := Addr.ofList text } ∧
    execAll (Stmt.setAddr (indexAt 0x030) text).expand s =
      .next { s with regs.remoteAddr := Addr.ofList text } ∧
    execAll (Stmt.setAddr (indexAt 0x080) text).expand s =
      .next { s with hdr.dest := Addr.ofList text } ∧
    execAll (Stmt.setAddr (indexAt 0x098) text).expand s =
      .next { s with hdr.src := Addr.ofList text }) ∧
  (∀ (s : State) (bytes : List Byte), s.engine = .idle → bytes.length ≤ s.cfg.maxFrame →
    ∃ t : State, execAll (Stmt.wrrx bytes).expand s = .next t ∧
      t = { s with rxBuf := t.rxBuf, rxLen := BitVec.ofNat 32 bytes.length } ∧
      (∀ i (h : i < bytes.length), t.rxBuf.readByte i = some bytes[i]) ∧
      (∀ j, bytes.length + 3 ≤ j → t.rxBuf.readByte j = s.rxBuf.readByte j))

/-! ### ENCODE and DECODE -/

/-- ENCODE (40_codec.md R124): FRAME_TOO_LONG if HDR_PLEN > M, else RANGE_ERROR if the payload region wraps,
and then nothing but RESULT changes. Otherwise the frame of the header registers and the payload is in
TXBUF, and TXLEN, TX_VALID and RESULT say so; nothing else changes. -/
def Obligations.EncodePacksHeaderAndPayloadIntoTxbuf : Prop :=
  ∀ s : State, s.Ready →
    (s.cfg.maxFrame - 51 < s.hdr.payloadLength.toNat →
      exec .encode s = .next { s with result := .frameTooLong, engine := .idle, env.raced := [] }) ∧
    (s.hdr.payloadLength.toNat ≤ s.cfg.maxFrame - 51 →
      2 ^ 32 < s.regs.msgBase.toNat + s.hdr.payloadLength.toNat →
      exec .encode s = .next { s with result := .rangeError, engine := .idle, env.raced := [] }) ∧
    (s.hdr.payloadLength.toNat ≤ s.cfg.maxFrame - 51 →
      s.regs.msgBase.toNat + s.hdr.payloadLength.toNat ≤ 2 ^ 32 →
      exec .encode s = .next { s with
        txBuf := s.txBuf.writeBytes 0 (packHeader s.cfg.wireOrder s.hdr
          ++ s.mem.hostBytes s.regs.msgBase.toNat s.hdr.payloadLength.toNat)
        txLen := BitVec.ofNat 32 (51 + s.hdr.payloadLength.toNat)
        status.txValid := true
        result := .ok
        engine := .idle
        env.raced := [] })

/-- DECODE of a candidate: the header registers take its header, or MALFORMED_FRAME leaves them as they
are; nothing but HDR_* and RESULT changes (40_codec.md R126). -/
def Obligations.DecodeUnpacksTheCandidateOrReportsMalformed : Prop :=
  ∀ s : State, s.Ready → ∃ (cand : List Byte) (n : Nat), s.Shows cand ∧
    exec .decode s = match decodeFrame s.cfg.wireOrder cand with
      | none => .next { s with
          result := .malformedFrame
          engine := .idle
          env := { s.env with draws := n, raced := [] } }
      | some (h, _) => .next { s with
          hdr := h
          result := .ok
          engine := .idle
          env := { s.env with draws := n, raced := [] } }

/-! ### The fragmenter -/

/-- FRAG_START (41_fragmenter.md R143) raises ADDRESS_RESOLUTION_ERROR, else RANGE_ERROR, else MESSAGE_TOO_LONG,
and then changes nothing but RESULT and draws nothing. Otherwise it latches the context, takes one draw and
starts the message; nothing else changes. The draw is the entropy source's next value when the
surroundings name one. -/
def Obligations.FragStartLatchesTheMessage : Prop :=
  ∀ s : State, s.Ready →
    (s.regs.localValid = false → exec .fragStart s =
      .next { s with result := .addressResolutionError, engine := .idle, env.raced := [] }) ∧
    (s.regs.localValid = true → 2 ^ 32 < s.regs.msgBase.toNat + s.regs.msgLen.toNat →
      exec .fragStart s = .next { s with result := .rangeError, engine := .idle, env.raced := [] }) ∧
    (s.regs.localValid = true → s.regs.msgBase.toNat + s.regs.msgLen.toNat ≤ 2 ^ 32 →
      tooLong s.cfg s.regs.msgLen.toNat s.regs.align = true →
      exec .fragStart s =
        .next { s with result := .messageTooLong, engine := .idle, env.raced := [] }) ∧
    (s.regs.localValid = true → s.regs.msgBase.toNat + s.regs.msgLen.toNat ≤ 2 ^ 32 →
      tooLong s.cfg s.regs.msgLen.toNat s.regs.align = false →
      ∃ (v : Half) (e : List Half) (n : Nat),
        exec .fragStart s = .next { s with
          fctx := ⟨s.regs.localAddr, s.regs.remoteAddr, s.regs.protocolId, s.regs.frameType,
            s.regs.msgBase, s.regs.msgLen, s.regs.align, v⟩
          frag := ⟨v, 0, 0⟩
          status.fragActive := true
          result := .ok
          engine := .idle
          env := { s.env with entropy := e, draws := n, raced := [] } } ∧
        (∀ w rest, s.env.entropy = w :: rest → v = w ∧ e = rest))

/-- SEND raises what FRAG_START raises, in the same order, and then changes nothing but RESULT; no frame is
produced and no entropy is drawn (41_fragmenter.md R150, 60_exceptions.md R227). -/
def Obligations.SendStartErrorsChangeOnlyTheResult : Prop :=
  ∀ s : State, s.Ready →
    (s.regs.localValid = false → exec .send s =
      .next { s with result := .addressResolutionError, engine := .idle, env.raced := [] }) ∧
    (s.regs.localValid = true → 2 ^ 32 < s.regs.msgBase.toNat + s.regs.msgLen.toNat →
      exec .send s = .next { s with result := .rangeError, engine := .idle, env.raced := [] }) ∧
    (s.regs.localValid = true → s.regs.msgBase.toNat + s.regs.msgLen.toNat ≤ 2 ^ 32 →
      tooLong s.cfg s.regs.msgLen.toNat s.regs.align = true →
      exec .send s = .next { s with result := .messageTooLong, engine := .idle, env.raced := [] })

/-- FRAG_NEXT (41_fragmenter.md R146) raises FRAG_NOT_ACTIVE without a message in progress, and then changes
nothing but RESULT. Otherwise it produces the next frame of the message: with step, plen and more as the
rule computes them, the frame is in TXBUF, the cursor and the offset have moved past it, and FRAG_ACTIVE
falls after the last frame; nothing else changes. That the latched message is in range and the cursor
within it is part of the invariant. -/
def Obligations.FragNextProducesTheNextFrame : Prop :=
  (∀ s : State, s.Ready → s.status.fragActive = false → exec .fragNext s =
    .next { s with result := .fragNotActive, engine := .idle, env.raced := [] }) ∧
  ∀ (s : State) (stepLen plen : Nat) (more : Bool), s.Ready → s.status.fragActive = true →
    s.fctx.base.toNat + s.fctx.len.toNat ≤ 2 ^ 32 → s.frag.cursor.toNat ≤ s.fctx.len.toNat →
    stepLen = (if s.fctx.align then (s.cfg.maxFrame - 51) / s.cfg.blockSize * s.cfg.blockSize
      else s.cfg.maxFrame - 51) →
    plen = min stepLen (s.fctx.len.toNat - s.frag.cursor.toNat) →
    more = decide (s.frag.cursor.toNat + plen < s.fctx.len.toNat) →
    exec .fragNext s = .next { s with
      txBuf := s.txBuf.writeBytes 0 (packHeader s.cfg.wireOrder
        ⟨s.fctx.remoteAddr, s.fctx.localAddr, s.fctx.type, s.fctx.proto, BitVec.ofNat 32 plen,
          s.fctx.fragid, BitVec.ofBool more ++ s.frag.offblk.extractLsb' 0 15, 0⟩
        ++ s.mem.hostBytes (s.fctx.base.toNat + s.frag.cursor.toNat) plen)
      txLen := BitVec.ofNat 32 (51 + plen)
      frag.cursor := BitVec.ofNat 32 (s.frag.cursor.toNat + plen)
      frag.offblk := BitVec.ofNat 32 (s.frag.offblk.toNat + plen / s.cfg.blockSize)
      status.txValid := true
      status.fragActive := more
      result := .ok
      engine := .idle
      env.raced := [] }

/-- XMIT (41_fragmenter.md R149) raises NO_FRAME without a staged frame, and then changes nothing but RESULT.
Otherwise it offers the staged frame to the transport and clears TX_VALID when the transport answers; the
answer TXLEN gives OK and any other TRANSPORT_ERROR; without an answer it waits in WAIT_TX. -/
def Obligations.XmitOffersTheStagedFrame : Prop :=
  (∀ s : State, s.Ready → s.status.txValid = false → exec .xmit s =
    .next { s with result := .noFrame, engine := .idle, env.raced := [] }) ∧
  ∀ s : State, s.Ready → s.status.txValid = true →
    ∃ (frame : List Byte) (n : Nat), s.Stages frame ∧
      (∀ rest, s.env.txAnswers = .accepted s.txLen.toNat :: rest → exec .xmit s = .next { s with
        status.txValid := false
        result := .ok
        engine := .idle
        env := { s.env with
          txAnswers := rest
          txLog := ⟨frame, .answered (.accepted s.txLen.toNat)⟩ :: s.env.txLog
          draws := n
          raced := [] } }) ∧
      (∀ a rest, s.env.txAnswers = a :: rest → a ≠ .accepted s.txLen.toNat →
        exec .xmit s = .next { s with
          status.txValid := false
          result := .transportError
          engine := .idle
          env := { s.env with
            txAnswers := rest
            txLog := ⟨frame, .answered a⟩ :: s.env.txLog
            draws := n
            raced := [] } }) ∧
      (s.env.txAnswers = [] → exec .xmit s = .next { s with
        engine := .waitTx .xmit
        env := { s.env with
          txLog := ⟨frame, .pending⟩ :: s.env.txLog
          draws := n
          raced := [] } })

/-- SEND with a transport that takes every frame in full offers exactly the n frames of 41_fragmenter.md R142,
in order, and ends with OK, FRAG_ACTIVE = 0, TX_VALID = 0 and FRAG_CURSOR = L (R150). TXBUF and TXLEN hold
the last frame; the other registers, host memory and RXBUF are unchanged. -/
def Obligations.SendOffersExactlyTheFramesOfTheMessage : Prop :=
  ∀ (s : State) (f : Fctx) (n : Nat) (rest : List TxAnswer), s.Ready → s.regs.localValid = true →
    s.regs.msgBase.toNat + s.regs.msgLen.toNat ≤ 2 ^ 32 →
    tooLong s.cfg s.regs.msgLen.toNat s.regs.align = false →
    f = ⟨s.regs.localAddr, s.regs.remoteAddr, s.regs.protocolId, s.regs.frameType,
      s.regs.msgBase, s.regs.msgLen, s.regs.align, (draw16 s).1⟩ →
    n = messageFrames s.cfg f →
    s.env.txAnswers = (List.range n).map (fullAnswer s.cfg f) ++ rest →
    ∃ t : State, exec .send s = .next t ∧
      t.env.txLog = ((List.range n).map (fun i =>
        (⟨messageFrame s.cfg f s.mem i, .answered (fullAnswer s.cfg f i)⟩ : TxRecord))).reverse
        ++ s.env.txLog ∧
      t.env.txAnswers = rest ∧ t.result = .ok ∧ t.engine = .idle ∧
      t.status = { s.status with fragActive := false, txValid := false } ∧
      t.fctx = f ∧ t.frag.id = f.fragid ∧ t.frag.cursor = s.regs.msgLen ∧
      t.frag.offblk.toNat = (n - 1) * blocksPerChunk s.cfg
        + chunkLen s.cfg f (n - 1) / s.cfg.blockSize ∧
      t.txLen.toNat = 51 + chunkLen s.cfg f (n - 1) ∧
      t.Stages (messageFrame s.cfg f s.mem (n - 1)) ∧
      t.cfg = s.cfg ∧ t.regs = s.regs ∧ t.hdr = s.hdr ∧ t.rx = s.rx ∧ t.rxLen = s.rxLen ∧
      t.rxBuf = s.rxBuf ∧ t.mem = s.mem ∧ t.env.rxQueue = s.env.rxQueue ∧
      t.env.schedule = s.env.schedule

/-- SEND whose transport takes frames 0 .. k - 1 in full and answers frame k otherwise ends with
TRANSPORT_ERROR: frames 0 .. k have been offered and no other, FRAG_ACTIVE and TX_VALID are 0, and
FRAG_CURSOR and FRAG_OFFBLK show the state after frame k was produced (41_fragmenter.md R150). -/
def Obligations.SendStopsAtTheFirstFailedFrame : Prop :=
  ∀ (s : State) (f : Fctx) (k : Nat) (bad : TxAnswer) (rest : List TxAnswer), s.Ready →
    s.regs.localValid = true →
    s.regs.msgBase.toNat + s.regs.msgLen.toNat ≤ 2 ^ 32 →
    tooLong s.cfg s.regs.msgLen.toNat s.regs.align = false →
    f = ⟨s.regs.localAddr, s.regs.remoteAddr, s.regs.protocolId, s.regs.frameType,
      s.regs.msgBase, s.regs.msgLen, s.regs.align, (draw16 s).1⟩ →
    k < messageFrames s.cfg f → bad ≠ fullAnswer s.cfg f k →
    s.env.txAnswers = (List.range k).map (fullAnswer s.cfg f) ++ bad :: rest →
    ∃ t : State, exec .send s = .next t ∧
      t.env.txLog = ⟨messageFrame s.cfg f s.mem k, .answered bad⟩
        :: ((List.range k).map (fun i =>
          (⟨messageFrame s.cfg f s.mem i, .answered (fullAnswer s.cfg f i)⟩ : TxRecord))).reverse
        ++ s.env.txLog ∧
      t.env.txAnswers = rest ∧ t.result = .transportError ∧ t.engine = .idle ∧
      t.status = { s.status with fragActive := false, txValid := false } ∧
      t.fctx = f ∧ t.frag.id = f.fragid ∧ t.txLen.toNat = 51 + chunkLen s.cfg f k ∧
      t.Stages (messageFrame s.cfg f s.mem k) ∧
      t.frag.cursor.toNat = k * chunkStep s.cfg f.align + chunkLen s.cfg f k ∧
      t.frag.offblk.toNat = k * blocksPerChunk s.cfg + chunkLen s.cfg f k / s.cfg.blockSize ∧
      t.cfg = s.cfg ∧ t.regs = s.regs ∧ t.hdr = s.hdr ∧ t.rx = s.rx ∧ t.rxLen = s.rxLen ∧
      t.rxBuf = s.rxBuf ∧ t.mem = s.mem ∧ t.env.rxQueue = s.env.rxQueue ∧
      t.env.schedule = s.env.schedule

/-- SEND whose transport has taken frames 0 .. k - 1 in full and does not answer frame k stays in WAIT_TX with
BUSY = 1 and frame k offered (41_fragmenter.md R150, 10_state.md R47). -/
def Obligations.SendWaitsForTheAnswerToEachFrame : Prop :=
  ∀ (s : State) (f : Fctx) (k : Nat), s.Ready → s.regs.localValid = true →
    s.regs.msgBase.toNat + s.regs.msgLen.toNat ≤ 2 ^ 32 →
    tooLong s.cfg s.regs.msgLen.toNat s.regs.align = false →
    f = ⟨s.regs.localAddr, s.regs.remoteAddr, s.regs.protocolId, s.regs.frameType,
      s.regs.msgBase, s.regs.msgLen, s.regs.align, (draw16 s).1⟩ →
    k < messageFrames s.cfg f → s.env.txAnswers = (List.range k).map (fullAnswer s.cfg f) →
    ∃ t : State, exec .send s = .next t ∧
      t.engine = .waitTx .send ∧ t.busy = true ∧ t.result = s.result ∧
      t.env.txLog = ⟨messageFrame s.cfg f s.mem k, .pending⟩
        :: ((List.range k).map (fun i =>
          (⟨messageFrame s.cfg f s.mem i, .answered (fullAnswer s.cfg f i)⟩ : TxRecord))).reverse
        ++ s.env.txLog ∧
      t.status = { s.status with
        fragActive := decide (k + 1 < messageFrames s.cfg f)
        txValid := true } ∧
      t.fctx = f ∧ t.frag.cursor.toNat = k * chunkStep s.cfg f.align + chunkLen s.cfg f k ∧
      t.mem = s.mem ∧ t.regs = s.regs ∧ t.hdr = s.hdr ∧ t.rx = s.rx ∧ t.rxLen = s.rxLen ∧
      t.rxBuf = s.rxBuf

/-- A message FRAG_START accepts never has an offset that needs more than 15 bits: in every good state with
a message in progress, FRAG_OFFBLK[14:0] = FRAG_OFFBLK, and the next frame carries it
(41_fragmenter.md R144). -/
def Obligations.ActiveOffsetsFitFifteenBits : Prop :=
  ∀ s : State, s.Inv → s.status.fragActive = true →
    s.frag.offblk.toNat ≤ 0x7FFF ∧ s.nextHeader.offblk = s.frag.offblk.toNat ∧
    s.nextHeader.more = s.nextMore

/-! ### The reassembler -/

/-- RX_INIT (42_reassembler.md R171) raises ADDRESS_RESOLUTION_ERROR, else RANGE_ERROR, and then changes nothing
but RESULT; otherwise it creates a fresh instance, from every reassembler state. -/
def Obligations.RxInitCreatesAFreshInstance : Prop :=
  ∀ s : State, s.Ready →
    (s.regs.localValid = false → exec .rxInit s =
      .next { s with result := .addressResolutionError, engine := .idle, env.raced := [] }) ∧
    (s.regs.localValid = true → 2 ^ 32 < s.regs.outBase.toNat + s.regs.outCap.toNat →
      exec .rxInit s = .next { s with result := .rangeError, engine := .idle, env.raced := [] }) ∧
    (s.regs.localValid = true → s.regs.outBase.toNat + s.regs.outCap.toNat ≤ 2 ^ 32 →
      exec .rxInit s = .next { s with
        rx := ⟨0, s.regs.outBase, s.regs.outCap⟩
        status.lastDrop := .none
        status.rxState := .awaitingFrame
        result := .ok
        engine := .idle
        env.raced := [] })

/-- RECV stores one delivery of at most MAX_FRAME_SIZE bytes in RXBUF and RXLEN; ERR gives TRANSPORT_ERROR
with both unchanged; without an answer it waits in WAIT_RX (42_reassembler.md R172). -/
def Obligations.RecvTakesOneDelivery : Prop :=
  ∀ s : State, s.Ready →
    (∀ r rest, s.env.rxQueue = .delivered r :: rest → r.length ≤ s.cfg.maxFrame →
      exec .recv s = .next { s with
        rxBuf := s.rxBuf.writeBytes 0 r
        rxLen := BitVec.ofNat 32 r.length
        result := .ok
        engine := .idle
        env := { s.env with rxQueue := rest, raced := [] } }) ∧
    (∀ rest, s.env.rxQueue = .err :: rest → exec .recv s = .next { s with
        result := .transportError
        engine := .idle
        env := { s.env with rxQueue := rest, raced := [] } }) ∧
    (s.env.rxQueue = [] → exec .recv s = .next { s with
        engine := .waitRx .recv
        env.raced := [] })

/-- RX_PROCESS (42_reassembler.md R174) raises ADDRESS_RESOLUTION_ERROR, else NOT_AWAITING, and then changes
nothing but RESULT; in AWAITING_FRAME it runs the arrival on the candidate in RXBUF. That the latched
output region is in range is part of the invariant. -/
def Obligations.RxProcessRunsOneArrival : Prop :=
  ∀ s : State, s.Ready →
    (s.regs.localValid = false → exec .rxProcess s =
      .next { s with result := .addressResolutionError, engine := .idle, env.raced := [] }) ∧
    (s.regs.localValid = true → s.status.rxState ≠ .awaitingFrame → exec .rxProcess s =
      .next { s with result := .notAwaiting, engine := .idle, env.raced := [] }) ∧
    (s.regs.localValid = true → s.status.rxState = .awaitingFrame →
      s.rx.outBase.toNat + s.rx.outCap.toNat ≤ 2 ^ 32 →
      ∃ (cand : List Byte) (n : Nat), s.Shows cand ∧ ArrivalAnswers s cand n (exec .rxProcess s))

/-- RX_STEP (42_reassembler.md R176) raises ADDRESS_RESOLUTION_ERROR, else NOT_AWAITING, and then changes nothing
but RESULT and reads nothing from the transport. In AWAITING_FRAME it takes one delivery, stores it as RECV
does and runs the arrival on it; ERR gives TRANSPORT_ERROR with RX_STATE unchanged; without an answer it
waits in WAIT_RX. -/
def Obligations.RxStepRunsTheArrivalOfOneDelivery : Prop :=
  ∀ s : State, s.Ready →
    (s.regs.localValid = false → exec .rxStep s =
      .next { s with result := .addressResolutionError, engine := .idle, env.raced := [] }) ∧
    (s.regs.localValid = true → s.status.rxState ≠ .awaitingFrame → exec .rxStep s =
      .next { s with result := .notAwaiting, engine := .idle, env.raced := [] }) ∧
    (s.regs.localValid = true → s.status.rxState = .awaitingFrame →
      s.rx.outBase.toNat + s.rx.outCap.toNat ≤ 2 ^ 32 →
      (∀ r rest, s.env.rxQueue = .delivered r :: rest → r.length ≤ s.cfg.maxFrame →
        ∃ n : Nat, ArrivalAnswers { s with
          rxBuf := s.rxBuf.writeBytes 0 r
          rxLen := BitVec.ofNat 32 r.length
          env.rxQueue := rest } r n (exec .rxStep s)) ∧
      (∀ rest, s.env.rxQueue = .err :: rest → exec .rxStep s = .next { s with
          result := .transportError
          engine := .idle
          env := { s.env with rxQueue := rest, raced := [] } }) ∧
      (s.env.rxQueue = [] → exec .rxStep s = .next { s with
          engine := .waitRx .rxStep
          env.raced := [] }))

/-- The five commands that use the local address raise ADDRESS_RESOLUTION_ERROR while LOCAL_VALID = 0, before
any other effect (60_exceptions.md R224). -/
def Obligations.CommandsThatUseTheLocalAddressNeedIt : Prop :=
  ∀ (s : State) (c : Cmd),
    c ∈ ([.fragStart, .send, .rxInit, .rxProcess, .rxStep] : List Cmd) → s.Ready →
    s.regs.localValid = false →
    exec (Instr.ofCmd c) s =
      .next { s with result := .addressResolutionError, engine := .idle, env.raced := [] }

/-- A frame with another protocol, a foreign destination or the receiver's own source leaves RX_STATE,
RX_TOTAL and every host memory byte unchanged; only RESULT and LAST_DROP change (42_reassembler.md R177). -/
def Obligations.DroppedFramesLeaveTheReassemblerAlone : Prop :=
  ∀ (s : State) (cand : List Byte) (h : Header) (p : List Byte), s.Ready →
    s.regs.localValid = true → s.status.rxState = .awaitingFrame →
    cand.length = s.rxLen.toNat → cand.length ≤ s.cfg.maxFrame →
    (∀ i (hi : i < cand.length), s.rxBuf.readByte i = some cand[i]) →
    decodeFrame s.cfg.wireOrder cand = some (h, p) →
    (h.protocolId ≠ s.regs.protocolId ∨ h.dest ≠ s.regs.localAddr ∨ h.src = s.regs.localAddr) →
    ∃ (reason : DropReason) (n : Nat), reason ≠ .none ∧
      exec .rxProcess s = .next { s with
        status.lastDrop := reason
        result := .incomplete
        engine := .idle
        env := { s.env with draws := n, raced := [] } }

/-- The frames of one message, delivered in order to a block whose local address is their destination,
complete the reassembly in n RX_STEPs. The completion total is (n - 1) × K × BLOCK_SIZE plus the last
payload length. Where BLOCK_SIZE divides the chunk step (always in aligned mode) it is L, and the output
equals the message (41_fragmenter.md R148). No byte outside the output region changes. -/
def Obligations.FramesInOrderCompleteAndRoundTripWhereBlocksDivideTheStep : Prop :=
  ∀ (f : Fctx) (m : Memory) (r : State) (n : Nat) (rest : List RxAnswer), r.Ready →
    r.regs.localValid = true → r.status.rxState = .awaitingFrame →
    f.remoteAddr = r.regs.localAddr → f.localAddr ≠ r.regs.localAddr →
    f.proto = r.regs.protocolId → tooLong r.cfg f.len.toNat f.align = false →
    r.rx.outBase.toNat + r.rx.outCap.toNat ≤ 2 ^ 32 → f.len.toNat ≤ r.rx.outCap.toNat →
    n = messageFrames r.cfg f →
    r.env.rxQueue =
      (List.range n).map (fun i => RxAnswer.delivered (messageFrame r.cfg f m i)) ++ rest →
    ∃ t : State, execAll (List.replicate n .rxStep) r = .next t ∧
      t.status.rxState = .complete ∧ t.result = .complete ∧ t.env.rxQueue = rest ∧
      t.rx.total.toNat =
        (n - 1) * (blocksPerChunk r.cfg * r.cfg.blockSize) + chunkLen r.cfg f (n - 1) ∧
      (r.cfg.blockSize ∣ chunkStep r.cfg f.align → t.rx.total = f.len ∧
        ∀ j, j < f.len.toNat →
          t.mem.hostAt (r.rx.outBase.toNat + j) = m.hostAt (f.base.toNat + j)) ∧
      (f.align = true → r.cfg.blockSize ∣ chunkStep r.cfg f.align) ∧
      (∀ a, a < r.rx.outBase.toNat ∨ r.rx.outBase.toNat + r.rx.outCap.toNat ≤ a →
        t.mem.readByte a = r.mem.readByte a)

/-! ### Rules about the whole machine -/

/-- Only RX_INIT leaves IDLE, COMPLETE or ABORTED, and only RX_PROCESS and RX_STEP move AWAITING_FRAME, to
COMPLETE or ABORTED (10_state.md R42), whether a command ends in its own exec or in a later engine move. -/
def Obligations.OnlyTheListedCommandsMoveTheReassembler : Prop :=
  (∀ (i : Instr) (s t : State), exec i s = .next t →
    t.status.rxState = s.status.rxState ∨
    (commandIssued i = some .rxInit ∧ t.status.rxState = .awaitingFrame) ∨
    ((commandIssued i = some .rxProcess ∨ commandIssued i = some .rxStep) ∧
      s.status.rxState = .awaitingFrame ∧
      (t.status.rxState = .complete ∨ t.status.rxState = .aborted))) ∧
  (∀ s t : State, engineMove s = .next t → s.Inv →
    t.status.rxState = s.status.rxState ∨
    (s.engine.op = some .rxInit ∧ t.status.rxState = .awaitingFrame) ∨
    ((s.engine.op = some .rxProcess ∨ s.engine.op = some .rxStep) ∧
      s.status.rxState = .awaitingFrame ∧
      (t.status.rxState = .complete ∨ t.status.rxState = .aborted)))

/-- No instruction and no engine move changes a byte of host memory outside
[RX_OUT_BASE, RX_OUT_BASE + RX_OUT_CAP), and only RX_PROCESS and RX_STEP change one at all
(20_memory.md R71, 42_reassembler.md R177). -/
def Obligations.HostMemoryIsWrittenOnlyInTheOutputRegion : Prop :=
  (∀ (i : Instr) (s t : State), exec i s = .next t →
    (∀ a, a < s.rx.outBase.toNat ∨ s.rx.outBase.toNat + s.rx.outCap.toNat ≤ a →
      t.mem.readByte a = s.mem.readByte a) ∧
    (commandIssued i ≠ some .rxProcess → commandIssued i ≠ some .rxStep → t.mem = s.mem)) ∧
  (∀ s t : State, engineMove s = .next t →
    (∀ a, a < s.rx.outBase.toNat ∨ s.rx.outBase.toNat + s.rx.outCap.toNat ≤ a →
      t.mem.readByte a = s.mem.readByte a) ∧
    (s.engine.op ≠ some .rxProcess → s.engine.op ≠ some .rxStep → t.mem = s.mem))

/-- Each STATUS flag is written only as 10_state.md R48 lists it: BUSY set by an accepted CMD write and cleared
by the end of that command; CMD_OVR set by a CMD write while BUSY = 1 and cleared by a host write of 1 to
STATUS[1]; FRAG_ACTIVE, TX_VALID and LAST_DROP by the commands named, whether a command ends in its own exec
or in a later engine move. No move of the host's memory or the transport writes one. (RX_STATE is
OnlyTheListedCommandsMoveTheReassembler, reset ResetEventResetsTheBlockOnly.) -/
def Obligations.StatusFlagsChangeOnlyAsListed : Prop :=
  (∀ (i : Instr) (s t : State), exec i s = .next t →
    (t.busy ≠ s.busy → writesCmd i = true ∧ s.busy = false) ∧
    (t.status.cmdOvr ≠ s.status.cmdOvr →
      (writesCmd i = true ∧ s.busy = true ∧ t.status.cmdOvr = true) ∨
      (∃ data : Word, i = .regWrite 1 data ∧ data.getLsbD 1 = true ∧ t.status.cmdOvr = false)) ∧
    (t.status.fragActive ≠ s.status.fragActive →
      (commandIssued i = some .fragStart ∧ t.status.fragActive = true) ∨
      (commandIssued i = some .fragNext ∧ t.status.fragActive = false) ∨
      commandIssued i = some .send) ∧
    (t.status.txValid ≠ s.status.txValid →
      (commandIssued i = some .encode ∧ t.status.txValid = true) ∨
      (commandIssued i = some .fragNext ∧ t.status.txValid = true) ∨
      (commandIssued i = some .xmit ∧ t.status.txValid = false) ∨
      commandIssued i = some .send) ∧
    (t.status.lastDrop ≠ s.status.lastDrop →
      (commandIssued i = some .rxInit ∧ t.status.lastDrop = .none) ∨
      commandIssued i = some .rxProcess ∨ commandIssued i = some .rxStep)) ∧
  (∀ s t : State, engineMove s = .next t →
    (t.busy ≠ s.busy → s.busy = true ∧ t.engine = .idle) ∧
    t.status.cmdOvr = s.status.cmdOvr ∧
    (t.status.fragActive ≠ s.status.fragActive →
      (s.engine.op = some .fragStart ∧ t.status.fragActive = true) ∨
      (s.engine.op = some .fragNext ∧ t.status.fragActive = false) ∨
      s.engine.op = some .send) ∧
    (t.status.txValid ≠ s.status.txValid →
      (s.engine.op = some .encode ∧ t.status.txValid = true) ∨
      (s.engine.op = some .fragNext ∧ t.status.txValid = true) ∨
      (s.engine.op = some .xmit ∧ t.status.txValid = false) ∨
      s.engine.op = some .send) ∧
    (t.status.lastDrop ≠ s.status.lastDrop →
      (s.engine.op = some .rxInit ∧ t.status.lastDrop = .none) ∨
      s.engine.op = some .rxProcess ∨ s.engine.op = some .rxStep)) ∧
  (∀ (e : Event) (s t : State), (∀ bytes, e ≠ .bus bytes) → (∀ a w, e ≠ .access a w) → e ≠ .reset →
    occur e s = .next t → t.status = s.status ∧ t.engine = s.engine)

/-- "Only the end of a command writes RESULT"; a command lost to CMD_OVR does not write it (10_state.md R26). -/
def Obligations.OnlyTheEndOfACommandWritesResult : Prop :=
  (∀ (i : Instr) (s t : State), exec i s = .next t → t.result ≠ s.result →
    writesCmd i = true ∧ s.busy = false ∧ t.busy = false) ∧
  (∀ s t : State, engineMove s = .next t → t.result ≠ s.result → s.busy = true ∧ t.busy = false)

/-- The header registers are written by DECODE and by host writes to them, and by nothing else
(10_state.md R21). -/
def Obligations.OnlyDecodeAndTheHostWriteTheHeaderRegisters : Prop :=
  (∀ (i : Instr) (s t : State), exec i s = .next t → t.hdr ≠ s.hdr →
    commandIssued i = some .decode ∨
    ∃ (index : BitVec 12) (data : Word), i = .regWrite index data ∧
      0x080 ≤ 4 * index.toNat ∧ 4 * index.toNat ≤ 0x0C4) ∧
  (∀ s t : State, engineMove s = .next t → t.hdr ≠ s.hdr → s.engine.op = some .decode)

/-- The transport's TX side sees frames in the order the commands produce them: an instruction or an engine
move only adds frames after those already offered (20_memory.md R81). -/
def Obligations.TheTransportSeesFramesInOrder : Prop :=
  (∀ (i : Instr) (s t : State), exec i s = .next t →
    ∃ new, t.env.txLog.map (·.frame) = new ++ s.env.txLog.map (·.frame)) ∧
  (∀ s t : State, engineMove s = .next t →
    ∃ new, t.env.txLog.map (·.frame) = new ++ s.env.txLog.map (·.frame))

/-- A command in WAIT_TX or WAIT_RX stays there until the transport answers or a reset comes, whatever the
host does meanwhile (10_state.md R47). That a step with no move to come changes nothing is the model's choice
(assumption log 3). -/
def Obligations.WaitsLastUntilTheTransportAnswers : Prop :=
  ∀ s : State, (s.engine.phase = .waitTx ∧ s.env.txAnswers = []) ∨
      (s.engine.phase = .waitRx ∧ s.env.rxQueue = []) →
    (s.env.schedule = [] → step s = .next s) ∧
    (∀ m rest t, s.env.schedule = m :: rest → m.event ≠ .reset → step s = .next t →
      t.engine = s.engine ∧ t.result = s.result)

/-- A wait ends as the command would have ended had the answers been ready: the engine's move from the wait,
with the answers, is the command's own outcome with those answers (60_exceptions.md R232). -/
def Obligations.AnAnswerEndsTheWaitAsIfItHadBeenReady : Prop :=
  (∀ (s w : State) (c : Cmd) (answers : List TxAnswer), c = .xmit ∨ c = .send → s.Ready →
    s.env.txAnswers = [] → exec (Instr.ofCmd c) s = .next w → w.engine.phase = .waitTx →
    engineMove { w with env.txAnswers := answers } =
      exec (Instr.ofCmd c) { s with env.txAnswers := answers }) ∧
  (∀ (s w : State) (c : Cmd) (answers : List RxAnswer), c = .recv ∨ c = .rxStep → s.Ready →
    s.env.rxQueue = [] → exec (Instr.ofCmd c) s = .next w → w.engine.phase = .waitRx →
    engineMove { w with env.rxQueue := answers } =
      exec (Instr.ofCmd c) { s with env.rxQueue := answers })

/-! ### Host memory -/

/-- A byte stored reads back, a store changes no other byte, and a store of bytes from an address puts byte
i at address + i and keeps the canonical form (00_scope.md R15, 20_memory.md R76). -/
def Obligations.MemoryReadsWhatWasLastStored : Prop :=
  ∀ (m : Memory) (a : Nat) (bytes : List Byte),
    (∀ i (h : i < bytes.length), (m.writeBytes a bytes).readByte (a + i) = some bytes[i]) ∧
    (∀ b, b < a ∨ a + bytes.length ≤ b → (m.writeBytes a bytes).readByte b = m.readByte b) ∧
    (m.wf = true → (m.writeBytes a bytes).wf = true)

/-- Memories in canonical form that read alike are the same data. -/
def Obligations.EqualReadsMakeEqualMemories : Prop :=
  ∀ m k : Memory, m.wf = true → k.wf = true → (∀ a, m.readByte a = k.readByte a) → m = k

/-- A MemWrite while the host has stored into the region leaves each byte written holding either value
(20_memory.md R80): the byte of the write, or, only where the host has stored meanwhile, what stood there;
every other byte is unchanged. Without a racing store every byte is the write's. -/
def Obligations.RacingBytesHoldEitherValue : Prop :=
  ∀ (s t : State) (a : Nat) (bytes : List Byte), s.memWrite a bytes = .ok t →
    (∀ i (h : i < bytes.length), t.mem.readByte (a + i) = some bytes[i] ∨
      (a + i ∈ s.env.raced ∧ t.mem.readByte (a + i) = s.mem.readByte (a + i))) ∧
    (∀ b, b < a ∨ a + bytes.length ≤ b → t.mem.readByte b = s.mem.readByte b) ∧
    (s.env.raced = [] → t.mem = s.mem.writeBytes a bytes)

/-- A host write to the message region while ENCODE, FRAG_NEXT or SEND runs makes every byte the command reads
there any value (20_memory.md R80, 70_reset_and_hazards.md R259): n free draws, and the command goes on. A
store elsewhere changes nothing of a read. ENCODE, FRAG_NEXT, and SEND going on with its next frame, then put
those free bytes after the header. That a store is remembered by its addresses is assumption log 14. -/
def Obligations.RacedMessageBytesAreAnyValue : Prop :=
  (∀ (s : State) (base len a n : Nat), a + n ≤ 2 ^ 32 →
    ((∃ x ∈ s.env.raced, base ≤ x ∧ x < base + len) →
      s.memRead base len a n = .ok ((List.range n).map (fun i => freeByte (s.env.draws + i)),
        { s with env.draws := s.env.draws + n })) ∧
    ((∀ x ∈ s.env.raced, x < base ∨ base + len ≤ x) →
      s.memRead base len a n = .ok (s.mem.hostBytes a n, s))) ∧
  (∀ s : State, s.engine = .run (some .encode) →
    s.hdr.payloadLength.toNat ≤ s.cfg.maxFrame - 51 →
    s.regs.msgBase.toNat + s.hdr.payloadLength.toNat ≤ 2 ^ 32 →
    (∃ x ∈ s.env.raced, s.regs.msgBase.toNat ≤ x ∧
      x < s.regs.msgBase.toNat + s.hdr.payloadLength.toNat) →
    ∃ t : State, engineMove s = .next t ∧ t.result = .ok ∧
      t.txBuf = s.txBuf.writeBytes 0 (packHeader s.cfg.wireOrder s.hdr
        ++ freeBytes s.env.draws s.hdr.payloadLength.toNat)) ∧
  (∀ s : State, s.engine = .run (some .fragNext) ∨
      (s.engine = .waitTx .send ∧ s.env.txAnswers = [.accepted s.txLen.toNat]) →
    s.status.fragActive = true → s.fctx.base.toNat + s.fctx.len.toNat ≤ 2 ^ 32 →
    s.frag.cursor.toNat ≤ s.fctx.len.toNat →
    (∃ x ∈ s.env.raced, s.fctx.base.toNat ≤ x ∧ x < s.fctx.base.toNat + s.fctx.len.toNat) →
    ∃ t : State, engineMove s = .next t ∧ t.status.txValid = true ∧
      t.txBuf = s.txBuf.writeBytes 0 (packHeader s.cfg.wireOrder s.nextHeader
        ++ freeBytes s.env.draws s.nextPlen))

/-- A host store into the message region while SEND waits for the transport makes the bytes SEND has read for
that command any value too (20_memory.md R80 "every byte the core reads there, for that command",
70_reset_and_hazards.md R259): of the frames SEND has offered, each keeps its header, its length and its
fate, and its payload is free bytes; older frames stay. TXBUF holds the same free bytes: the last frame's
payload, and above TXLEN what a full chunk before a shorter last one has left there (10_state.md R43). Any other host store
changes only host memory and the memory of races. Which of the log's frames are SEND's is assumption log
14. -/
def Obligations.AStoreDuringSendFreesTheBytesAlreadyRead : Prop :=
  ∀ (s : State) (addr : Word) (bytes : List Byte), addr.toNat + bytes.length ≤ 2 ^ 32 →
    ∃ t : State, hostStore addr bytes s = .next t ∧
      t = { s with
        mem := s.mem.writeBytes addr.toNat bytes
        txBuf := t.txBuf
        env := { s.env with txLog := t.env.txLog, raced := t.env.raced, draws := t.env.draws } } ∧
      (s.busy = true → ∀ x, x ∈ t.env.raced ↔
        (addr.toNat ≤ x ∧ x < addr.toNat + bytes.length) ∨ x ∈ s.env.raced) ∧
      (s.busy = false → t = { s with mem := s.mem.writeBytes addr.toNat bytes }) ∧
      (s.engine ≠ .waitTx .send ∨ (∀ x, addr.toNat ≤ x → x < addr.toNat + bytes.length →
          x < s.fctx.base.toNat ∨ s.fctx.base.toNat + s.fctx.len.toNat ≤ x) →
        t.txBuf = s.txBuf ∧ t.env.txLog = s.env.txLog ∧ t.env.draws = s.env.draws) ∧
      (s.engine = .waitTx .send →
        (∃ x, addr.toNat ≤ x ∧ x < addr.toNat + bytes.length ∧
          s.fctx.base.toNat ≤ x ∧ x < s.fctx.base.toNat + s.fctx.len.toNat) →
        t.env.txLog.length = s.env.txLog.length ∧
        (∀ (k : Nat) (r : TxRecord), s.env.txLog[k]? = some r →
          if k < frameCount s.cfg s.frag.cursor.toNat s.fctx.align then
            t.env.txLog[k]? = some ⟨r.frame.take 51 ++
              freeBytes (s.env.draws + k * s.cfg.maxFrame) (r.frame.length - 51), r.fate⟩
          else t.env.txLog[k]? = some r) ∧
        (∀ j, t.txBuf.readByte j =
          if 51 ≤ j ∧ j < s.txLen.toNat then some (freeByte (s.env.draws + (j - 51)))
          else if 51 ≤ j ∧ j < 51 + chunkStep s.cfg s.fctx.align ∧
              1 < frameCount s.cfg s.frag.cursor.toNat s.fctx.align then
            some (freeByte (s.env.draws + s.cfg.maxFrame + (j - 51)))
          else s.txBuf.readByte j))

/-- A host read of the output region while RX_PROCESS or RX_STEP runs returns, for each byte, either its old
value or the value the command writes (20_memory.md R80): the one in host memory, or that of the write under
way, which without a racing store is the one that stands there after the engine's move. A load changes nothing but what the host has read and the host's own draws
(assumption log 8, 14), and without such a command it returns the bytes of host memory. -/
def Obligations.RacingLoadsReturnTheOldOrTheNewByte : Prop :=
  ∀ (s : State) (addr : Word) (n : Nat), addr.toNat + n ≤ 2 ^ 32 →
    ∃ (t : State) (d : Nat), hostLoad addr n s = .next t ∧ t.env.hostData.length = n ∧
      t = { s with env := { s.env with hostData := t.env.hostData, busyDraws := d } } ∧
      (s.engine.op ≠ some .rxProcess → s.engine.op ≠ some .rxStep →
        t.env.hostData = s.mem.hostBytes addr.toNat n) ∧
      (∀ i, i < n → t.env.hostData[i]? = some (s.mem.hostAt (addr.toNat + i)) ∨
        ∃ (a : Nat) (p : List Byte), writeUnderWay s = some (a, p) ∧ a ≤ addr.toNat + i ∧
          addr.toNat + i < a + p.length ∧ t.env.hostData[i]? = p[addr.toNat + i - a]?) ∧
      (∀ u : State, s.env.raced = [] → engineMove t = .next u → ∀ i, i < n →
        t.env.hostData[i]? = some (s.mem.hostAt (addr.toNat + i)) ∨
        t.env.hostData[i]? = some (u.mem.hostAt (addr.toNat + i)))
end

