-- ==== Sys2Proof/Laws/Memory.lean ====
section
/-! SUPPORT. The laws of sparse bytes: read after write, frames, and the canonical form. -/

namespace Sys2Proof.Machine

open Sys2Proof

@[simp] theorem readByte_nil (a : Nat) : Memory.readByte [] a = none := rfl

@[simp] theorem readByte_writeByte_same (m : Memory) (a : Nat) (v : Byte) :
    (m.writeByte a v).readByte a = some v := by
  induction m with
  | nil => simp [Memory.writeByte, Memory.readByte]
  | cons c m ih =>
    obtain ⟨k, b⟩ := c
    simp only [Memory.writeByte]
    split
    · simp [Memory.readByte]
    · split
      · simp [Memory.readByte]
      · rename_i h1 h2
        simp [Memory.readByte, Ne.symm h2, ih]

theorem readByte_writeByte_of_ne (m : Memory) {a b : Nat} (v : Byte) (h : a ≠ b) :
    (m.writeByte a v).readByte b = m.readByte b := by
  induction m with
  | nil => simp [Memory.writeByte, Memory.readByte, h]
  | cons c m ih =>
    obtain ⟨k, w⟩ := c
    simp only [Memory.writeByte]
    split
    · simp [Memory.readByte, h]
    · split
      · rename_i _ h2
        subst h2
        simp [Memory.readByte, h]
      · simp [Memory.readByte, ih]

/-- A write leaves every byte outside it alone. -/
theorem readByte_writeBytes_of_not_mem (m : Memory) (a : Nat) (s : List Byte) {b : Nat}
    (h : b < a ∨ a + s.length ≤ b) : (m.writeBytes a s).readByte b = m.readByte b := by
  induction s generalizing m a with
  | nil => rfl
  | cons v s ih =>
    simp only [List.length_cons] at h
    rw [Memory.writeBytes, ih _ _ (by omega), readByte_writeByte_of_ne _ _ (by omega)]

/-- Byte i of what was written is found at its place. -/
theorem readByte_writeBytes (m : Memory) (a : Nat) (s : List Byte) {i : Nat} (h : i < s.length) :
    (m.writeBytes a s).readByte (a + i) = some s[i] := by
  induction s generalizing m a i with
  | nil => simp at h
  | cons v s ih =>
    rw [Memory.writeBytes]
    cases i with
    | zero => rw [readByte_writeBytes_of_not_mem _ _ _ (by omega)]; simp
    | succ i =>
      have hi : i < s.length := by simpa using h
      have := ih (m.writeByte a v) (a + 1) hi
      rw [show a + (i + 1) = a + 1 + i by omega, this]
      simp

theorem mem_writeByte {m : Memory} {a : Nat} {v : Byte} {c : Host.Cell}
    (h : c ∈ m.writeByte a v) : c = (a, v) ∨ c ∈ m := by
  induction m with
  | nil => simpa [Memory.writeByte] using h
  | cons d m ih =>
    obtain ⟨k, b⟩ := d
    simp only [Memory.writeByte] at h
    split at h
    · simpa using h
    · split at h
      · simp only [List.mem_cons] at h ⊢; tauto
      · simp only [List.mem_cons] at h ⊢
        rcases h with h | h
        · tauto
        · have := ih h; tauto

theorem wf_iff {m : Memory} : m.wf = true ↔ m.Pairwise (fun x y => x.1 < y.1) := by
  simp [Memory.wf]

/-- A write keeps the canonical form. -/
theorem wf_writeByte {m : Memory} (h : m.wf = true) (a : Nat) (v : Byte) :
    (m.writeByte a v).wf = true := by
  rw [wf_iff] at h ⊢
  induction m with
  | nil => simp [Memory.writeByte]
  | cons c m ih =>
    obtain ⟨k, b⟩ := c
    rw [List.pairwise_cons] at h
    simp only [Memory.writeByte]
    split
    · rename_i hak
      refine List.pairwise_cons.2 ⟨?_, List.pairwise_cons.2 h⟩
      intro d hd
      rcases List.mem_cons.1 hd with rfl | hd
      · exact hak
      · exact Nat.lt_trans hak (h.1 d hd)
    · split
      · rename_i _ hak
        subst hak
        exact List.pairwise_cons.2 h
      · refine List.pairwise_cons.2 ⟨?_, ih h.2⟩
        intro d hd
        rcases mem_writeByte hd with rfl | hd
        · simp only; omega
        · exact h.1 d hd

theorem wf_writeBytes {m : Memory} (h : m.wf = true) (a : Nat) (s : List Byte) :
    (m.writeBytes a s).wf = true := by
  induction s generalizing m a with
  | nil => exact h
  | cons v s ih => exact ih (wf_writeByte h a v) (a + 1)

theorem below_writeByte {m : Memory} {limit a : Nat} (h : m.below limit = true) (ha : a < limit)
    (v : Byte) : (m.writeByte a v).below limit = true := by
  simp only [Memory.below, List.all_eq_true, decide_eq_true_eq] at h ⊢
  intro c hc
  rcases mem_writeByte hc with rfl | hc
  · exact ha
  · exact h c hc

theorem below_writeBytes {m : Memory} {limit a : Nat} (h : m.below limit = true) {s : List Byte}
    (ha : s = [] ∨ a + s.length ≤ limit) : (m.writeBytes a s).below limit = true := by
  induction s generalizing m a with
  | nil => exact h
  | cons v s ih =>
    simp only [List.length_cons, reduceCtorEq, false_or] at ha
    exact ih (below_writeByte h (by omega) v) (by right; omega)

/-- The same write with some bytes left to the host's racing store (20_memory.md R80): outside the write
nothing changes. -/
theorem readByte_raceBytes_of_not_mem (m : Memory) (raced : List Nat) (draw a : Nat) (s : List Byte)
    {b : Nat} (h : b < a ∨ a + s.length ≤ b) :
    (m.raceBytes raced draw a s).readByte b = m.readByte b := by
  induction s generalizing m draw a with
  | nil => rfl
  | cons v s ih =>
    simp only [List.length_cons] at h
    rw [Memory.raceBytes]
    split
    · exact ih _ _ _ (by omega)
    · rw [ih _ _ _ (by omega), readByte_writeByte_of_ne _ _ (by omega)]

theorem wf_raceBytes {m : Memory} (h : m.wf = true) (raced : List Nat) (draw a : Nat)
    (s : List Byte) : (m.raceBytes raced draw a s).wf = true := by
  induction s generalizing m draw a with
  | nil => exact h
  | cons v s ih =>
    rw [Memory.raceBytes]
    split
    · exact ih h _ _
    · exact ih (wf_writeByte h a v) _ _

theorem below_raceBytes {m : Memory} {limit a : Nat} (h : m.below limit = true) (raced : List Nat)
    (draw : Nat) {s : List Byte} (ha : s = [] ∨ a + s.length ≤ limit) :
    (m.raceBytes raced draw a s).below limit = true := by
  induction s generalizing m draw a with
  | nil => exact h
  | cons v s ih =>
    simp only [List.length_cons, reduceCtorEq, false_or] at ha
    rw [Memory.raceBytes]
    split
    · exact ih h _ (by right; omega)
    · exact ih (below_writeByte h (by omega) v) _ (by right; omega)

@[simp] theorem length_hostBytes (m : Memory) (a n : Nat) : (m.hostBytes a n).length = n := by
  simp [Memory.hostBytes]

@[simp] theorem length_bufferBytes (cfg : Config) (buf : Memory) (draw start n : Nat) :
    (bufferBytes cfg buf draw start n).length = n := by
  simp [bufferBytes]

/-- Bytes read from a buffer region just written are the bytes written. -/
theorem bufferBytes_writeBytes (cfg : Config) (buf : Memory) (draw : Nat) (s : List Byte)
    (h : s.length ≤ cfg.maxFrame) :
    bufferBytes cfg (buf.writeBytes 0 s) draw 0 s.length = s := by
  apply List.ext_getElem (by simp)
  intro i h1 h2
  have hr := readByte_writeBytes buf 0 s h2
  rw [Nat.zero_add] at hr
  simp [bufferBytes, bufferByte, hr, Nat.lt_of_lt_of_le h2 h]

end Sys2Proof.Machine
end

