-- ==== Sys2Proof/Laws/State.lean ====
section
/-! SUPPORT. What each named update of the state does to each field, true by rfl, so that no proof unfolds
a record update. A field an update does not name is unchanged. -/

namespace Sys2Proof.Machine

open Sys2Proof

/-! ### `State.finish` -/

@[simp] theorem finish_cfg (c : ResultCode) (s : State) : (s.finish c).cfg = s.cfg := rfl
@[simp] theorem finish_engine (c : ResultCode) (s : State) : (s.finish c).engine = .idle := rfl
@[simp] theorem finish_status (c : ResultCode) (s : State) : (s.finish c).status = s.status := rfl
@[simp] theorem finish_result (c : ResultCode) (s : State) : (s.finish c).result = c := rfl
@[simp] theorem finish_regs (c : ResultCode) (s : State) : (s.finish c).regs = s.regs := rfl
@[simp] theorem finish_hdr (c : ResultCode) (s : State) : (s.finish c).hdr = s.hdr := rfl
@[simp] theorem finish_frag (c : ResultCode) (s : State) : (s.finish c).frag = s.frag := rfl
@[simp] theorem finish_fctx (c : ResultCode) (s : State) : (s.finish c).fctx = s.fctx := rfl
@[simp] theorem finish_txLen (c : ResultCode) (s : State) : (s.finish c).txLen = s.txLen := rfl
@[simp] theorem finish_rxLen (c : ResultCode) (s : State) : (s.finish c).rxLen = s.rxLen := rfl
@[simp] theorem finish_rx (c : ResultCode) (s : State) : (s.finish c).rx = s.rx := rfl
@[simp] theorem finish_txBuf (c : ResultCode) (s : State) : (s.finish c).txBuf = s.txBuf := rfl
@[simp] theorem finish_rxBuf (c : ResultCode) (s : State) : (s.finish c).rxBuf = s.rxBuf := rfl
@[simp] theorem finish_mem (c : ResultCode) (s : State) : (s.finish c).mem = s.mem := rfl
@[simp] theorem finish_env (c : ResultCode) (s : State) :
    (s.finish c).env = { s.env with raced := [] } := rfl

/-! ### `State.raise` -/

@[simp] theorem raise_cfg (c : ResultCode) (s : State) : (s.raise c).cfg = s.cfg := rfl
@[simp] theorem raise_engine (c : ResultCode) (s : State) : (s.raise c).engine = .idle := rfl
@[simp] theorem raise_status (c : ResultCode) (s : State) : (s.raise c).status = s.status := rfl
@[simp] theorem raise_result (c : ResultCode) (s : State) : (s.raise c).result = c := rfl
@[simp] theorem raise_regs (c : ResultCode) (s : State) : (s.raise c).regs = s.regs := rfl
@[simp] theorem raise_hdr (c : ResultCode) (s : State) : (s.raise c).hdr = s.hdr := rfl
@[simp] theorem raise_frag (c : ResultCode) (s : State) : (s.raise c).frag = s.frag := rfl
@[simp] theorem raise_fctx (c : ResultCode) (s : State) : (s.raise c).fctx = s.fctx := rfl
@[simp] theorem raise_txLen (c : ResultCode) (s : State) : (s.raise c).txLen = s.txLen := rfl
@[simp] theorem raise_rxLen (c : ResultCode) (s : State) : (s.raise c).rxLen = s.rxLen := rfl
@[simp] theorem raise_rx (c : ResultCode) (s : State) : (s.raise c).rx = s.rx := rfl
@[simp] theorem raise_txBuf (c : ResultCode) (s : State) : (s.raise c).txBuf = s.txBuf := rfl
@[simp] theorem raise_rxBuf (c : ResultCode) (s : State) : (s.raise c).rxBuf = s.rxBuf := rfl
@[simp] theorem raise_mem (c : ResultCode) (s : State) : (s.raise c).mem = s.mem := rfl
@[simp] theorem raise_env (c : ResultCode) (s : State) :
    (s.raise c).env = { s.env with raced := [] } := rfl

/-! ### `State.begin` -/

@[simp] theorem begin_cfg (op : Option Cmd) (s : State) : (s.begin op).cfg = s.cfg := rfl
@[simp] theorem begin_engine (op : Option Cmd) (s : State) : (s.begin op).engine = .run op := rfl
@[simp] theorem begin_status (op : Option Cmd) (s : State) : (s.begin op).status = s.status := rfl
@[simp] theorem begin_result (op : Option Cmd) (s : State) : (s.begin op).result = s.result := rfl
@[simp] theorem begin_regs (op : Option Cmd) (s : State) : (s.begin op).regs = s.regs := rfl
@[simp] theorem begin_hdr (op : Option Cmd) (s : State) : (s.begin op).hdr = s.hdr := rfl
@[simp] theorem begin_frag (op : Option Cmd) (s : State) : (s.begin op).frag = s.frag := rfl
@[simp] theorem begin_fctx (op : Option Cmd) (s : State) : (s.begin op).fctx = s.fctx := rfl
@[simp] theorem begin_txLen (op : Option Cmd) (s : State) : (s.begin op).txLen = s.txLen := rfl
@[simp] theorem begin_rxLen (op : Option Cmd) (s : State) : (s.begin op).rxLen = s.rxLen := rfl
@[simp] theorem begin_rx (op : Option Cmd) (s : State) : (s.begin op).rx = s.rx := rfl
@[simp] theorem begin_txBuf (op : Option Cmd) (s : State) : (s.begin op).txBuf = s.txBuf := rfl
@[simp] theorem begin_rxBuf (op : Option Cmd) (s : State) : (s.begin op).rxBuf = s.rxBuf := rfl
@[simp] theorem begin_mem (op : Option Cmd) (s : State) : (s.begin op).mem = s.mem := rfl
@[simp] theorem begin_env (op : Option Cmd) (s : State) :
    (s.begin op).env = { s.env with raced := [] } := rfl

/-! ### `State.drawn` -/

@[simp] theorem drawn_cfg (n : Nat) (s : State) : (s.drawn n).cfg = s.cfg := rfl
@[simp] theorem drawn_engine (n : Nat) (s : State) : (s.drawn n).engine = s.engine := rfl
@[simp] theorem drawn_status (n : Nat) (s : State) : (s.drawn n).status = s.status := rfl
@[simp] theorem drawn_result (n : Nat) (s : State) : (s.drawn n).result = s.result := rfl
@[simp] theorem drawn_regs (n : Nat) (s : State) : (s.drawn n).regs = s.regs := rfl
@[simp] theorem drawn_hdr (n : Nat) (s : State) : (s.drawn n).hdr = s.hdr := rfl
@[simp] theorem drawn_frag (n : Nat) (s : State) : (s.drawn n).frag = s.frag := rfl
@[simp] theorem drawn_fctx (n : Nat) (s : State) : (s.drawn n).fctx = s.fctx := rfl
@[simp] theorem drawn_txLen (n : Nat) (s : State) : (s.drawn n).txLen = s.txLen := rfl
@[simp] theorem drawn_rxLen (n : Nat) (s : State) : (s.drawn n).rxLen = s.rxLen := rfl
@[simp] theorem drawn_rx (n : Nat) (s : State) : (s.drawn n).rx = s.rx := rfl
@[simp] theorem drawn_txBuf (n : Nat) (s : State) : (s.drawn n).txBuf = s.txBuf := rfl
@[simp] theorem drawn_rxBuf (n : Nat) (s : State) : (s.drawn n).rxBuf = s.rxBuf := rfl
@[simp] theorem drawn_mem (n : Nat) (s : State) : (s.drawn n).mem = s.mem := rfl
@[simp] theorem drawn_env (n : Nat) (s : State) :
    (s.drawn n).env = { s.env with draws := s.env.draws + n } := rfl

/-! ### `State.stage` -/

@[simp] theorem stage_cfg (f : List Byte) (s : State) : (s.stage f).cfg = s.cfg := rfl
@[simp] theorem stage_engine (f : List Byte) (s : State) : (s.stage f).engine = s.engine := rfl
@[simp] theorem stage_status (f : List Byte) (s : State) :
    (s.stage f).status = { s.status with txValid := true } := rfl
@[simp] theorem stage_result (f : List Byte) (s : State) : (s.stage f).result = s.result := rfl
@[simp] theorem stage_regs (f : List Byte) (s : State) : (s.stage f).regs = s.regs := rfl
@[simp] theorem stage_hdr (f : List Byte) (s : State) : (s.stage f).hdr = s.hdr := rfl
@[simp] theorem stage_frag (f : List Byte) (s : State) : (s.stage f).frag = s.frag := rfl
@[simp] theorem stage_fctx (f : List Byte) (s : State) : (s.stage f).fctx = s.fctx := rfl
@[simp] theorem stage_txLen (f : List Byte) (s : State) :
    (s.stage f).txLen = BitVec.ofNat 32 f.length := rfl
@[simp] theorem stage_rxLen (f : List Byte) (s : State) : (s.stage f).rxLen = s.rxLen := rfl
@[simp] theorem stage_rx (f : List Byte) (s : State) : (s.stage f).rx = s.rx := rfl
@[simp] theorem stage_txBuf (f : List Byte) (s : State) :
    (s.stage f).txBuf = s.txBuf.writeBytes 0 f := rfl
@[simp] theorem stage_rxBuf (f : List Byte) (s : State) : (s.stage f).rxBuf = s.rxBuf := rfl
@[simp] theorem stage_mem (f : List Byte) (s : State) : (s.stage f).mem = s.mem := rfl
@[simp] theorem stage_env (f : List Byte) (s : State) : (s.stage f).env = s.env := rfl

/-! ### `State.storeCandidate` -/

@[simp] theorem storeCandidate_cfg (r : List Byte) (s : State) :
    (s.storeCandidate r).cfg = s.cfg := rfl
@[simp] theorem storeCandidate_engine (r : List Byte) (s : State) :
    (s.storeCandidate r).engine = s.engine := rfl
@[simp] theorem storeCandidate_status (r : List Byte) (s : State) :
    (s.storeCandidate r).status = s.status := rfl
@[simp] theorem storeCandidate_result (r : List Byte) (s : State) :
    (s.storeCandidate r).result = s.result := rfl
@[simp] theorem storeCandidate_regs (r : List Byte) (s : State) :
    (s.storeCandidate r).regs = s.regs := rfl
@[simp] theorem storeCandidate_hdr (r : List Byte) (s : State) :
    (s.storeCandidate r).hdr = s.hdr := rfl
@[simp] theorem storeCandidate_frag (r : List Byte) (s : State) :
    (s.storeCandidate r).frag = s.frag := rfl
@[simp] theorem storeCandidate_fctx (r : List Byte) (s : State) :
    (s.storeCandidate r).fctx = s.fctx := rfl
@[simp] theorem storeCandidate_txLen (r : List Byte) (s : State) :
    (s.storeCandidate r).txLen = s.txLen := rfl
@[simp] theorem storeCandidate_rxLen (r : List Byte) (s : State) :
    (s.storeCandidate r).rxLen = BitVec.ofNat 32 (r.take s.cfg.maxFrame).length := rfl
@[simp] theorem storeCandidate_rx (r : List Byte) (s : State) : (s.storeCandidate r).rx = s.rx := rfl
@[simp] theorem storeCandidate_txBuf (r : List Byte) (s : State) :
    (s.storeCandidate r).txBuf = s.txBuf := rfl
@[simp] theorem storeCandidate_rxBuf (r : List Byte) (s : State) :
    (s.storeCandidate r).rxBuf = s.rxBuf.writeBytes 0 (r.take s.cfg.maxFrame) := rfl
@[simp] theorem storeCandidate_mem (r : List Byte) (s : State) :
    (s.storeCandidate r).mem = s.mem := rfl
@[simp] theorem storeCandidate_env (r : List Byte) (s : State) :
    (s.storeCandidate r).env = s.env := rfl

/-! ### `State.offer` -/

@[simp] theorem offer_cfg (op : TxCmd) (s : State) : (s.offer op).cfg = s.cfg := rfl
@[simp] theorem offer_engine (op : TxCmd) (s : State) : (s.offer op).engine = .waitTx op := rfl
@[simp] theorem offer_status (op : TxCmd) (s : State) : (s.offer op).status = s.status := rfl
@[simp] theorem offer_result (op : TxCmd) (s : State) : (s.offer op).result = s.result := rfl
@[simp] theorem offer_regs (op : TxCmd) (s : State) : (s.offer op).regs = s.regs := rfl
@[simp] theorem offer_hdr (op : TxCmd) (s : State) : (s.offer op).hdr = s.hdr := rfl
@[simp] theorem offer_frag (op : TxCmd) (s : State) : (s.offer op).frag = s.frag := rfl
@[simp] theorem offer_fctx (op : TxCmd) (s : State) : (s.offer op).fctx = s.fctx := rfl
@[simp] theorem offer_txLen (op : TxCmd) (s : State) : (s.offer op).txLen = s.txLen := rfl
@[simp] theorem offer_rxLen (op : TxCmd) (s : State) : (s.offer op).rxLen = s.rxLen := rfl
@[simp] theorem offer_rx (op : TxCmd) (s : State) : (s.offer op).rx = s.rx := rfl
@[simp] theorem offer_txBuf (op : TxCmd) (s : State) : (s.offer op).txBuf = s.txBuf := rfl
@[simp] theorem offer_rxBuf (op : TxCmd) (s : State) : (s.offer op).rxBuf = s.rxBuf := rfl
@[simp] theorem offer_mem (op : TxCmd) (s : State) : (s.offer op).mem = s.mem := rfl
@[simp] theorem offer_env (op : TxCmd) (s : State) :
    (s.offer op).env = { s.env with
        txLog := ⟨s.stagedFrame, .pending⟩ :: s.env.txLog
        draws := s.env.draws + s.txLen.toNat } := rfl

/-! ### `State.answered` -/

@[simp] theorem answered_cfg (a : TxAnswer) (rest : List TxAnswer) (s : State) :
    (s.answered a rest).cfg = s.cfg := rfl
@[simp] theorem answered_engine (a : TxAnswer) (rest : List TxAnswer) (s : State) :
    (s.answered a rest).engine = s.engine := rfl
@[simp] theorem answered_status (a : TxAnswer) (rest : List TxAnswer) (s : State) :
    (s.answered a rest).status = { s.status with txValid := false } := rfl
@[simp] theorem answered_result (a : TxAnswer) (rest : List TxAnswer) (s : State) :
    (s.answered a rest).result = s.result := rfl
@[simp] theorem answered_regs (a : TxAnswer) (rest : List TxAnswer) (s : State) :
    (s.answered a rest).regs = s.regs := rfl
@[simp] theorem answered_hdr (a : TxAnswer) (rest : List TxAnswer) (s : State) :
    (s.answered a rest).hdr = s.hdr := rfl
@[simp] theorem answered_frag (a : TxAnswer) (rest : List TxAnswer) (s : State) :
    (s.answered a rest).frag = s.frag := rfl
@[simp] theorem answered_fctx (a : TxAnswer) (rest : List TxAnswer) (s : State) :
    (s.answered a rest).fctx = s.fctx := rfl
@[simp] theorem answered_txLen (a : TxAnswer) (rest : List TxAnswer) (s : State) :
    (s.answered a rest).txLen = s.txLen := rfl
@[simp] theorem answered_rxLen (a : TxAnswer) (rest : List TxAnswer) (s : State) :
    (s.answered a rest).rxLen = s.rxLen := rfl
@[simp] theorem answered_rx (a : TxAnswer) (rest : List TxAnswer) (s : State) :
    (s.answered a rest).rx = s.rx := rfl
@[simp] theorem answered_txBuf (a : TxAnswer) (rest : List TxAnswer) (s : State) :
    (s.answered a rest).txBuf = s.txBuf := rfl
@[simp] theorem answered_rxBuf (a : TxAnswer) (rest : List TxAnswer) (s : State) :
    (s.answered a rest).rxBuf = s.rxBuf := rfl
@[simp] theorem answered_mem (a : TxAnswer) (rest : List TxAnswer) (s : State) :
    (s.answered a rest).mem = s.mem := rfl
@[simp] theorem answered_env (a : TxAnswer) (rest : List TxAnswer) (s : State) :
    (s.answered a rest).env = { s.env with
        txAnswers := rest
        txLog := settleLast (.answered a) s.env.txLog } := rfl

/-! ### `State.pastNext` -/

@[simp] theorem pastNext_cfg (s : State) : (s.pastNext).cfg = s.cfg := rfl
@[simp] theorem pastNext_engine (s : State) : (s.pastNext).engine = s.engine := rfl
@[simp] theorem pastNext_status (s : State) :
    (s.pastNext).status = { s.status with
        fragActive := if s.nextMore then s.status.fragActive else false } := rfl
@[simp] theorem pastNext_result (s : State) : (s.pastNext).result = s.result := rfl
@[simp] theorem pastNext_regs (s : State) : (s.pastNext).regs = s.regs := rfl
@[simp] theorem pastNext_hdr (s : State) : (s.pastNext).hdr = s.hdr := rfl
@[simp] theorem pastNext_frag (s : State) :
    (s.pastNext).frag = { s.frag with
        cursor := BitVec.ofNat 32 (s.frag.cursor.toNat + s.nextPlen)
        offblk := BitVec.ofNat 32 (s.frag.offblk.toNat + s.nextPlen / s.cfg.blockSize) } := rfl
@[simp] theorem pastNext_fctx (s : State) : (s.pastNext).fctx = s.fctx := rfl
@[simp] theorem pastNext_txLen (s : State) : (s.pastNext).txLen = s.txLen := rfl
@[simp] theorem pastNext_rxLen (s : State) : (s.pastNext).rxLen = s.rxLen := rfl
@[simp] theorem pastNext_rx (s : State) : (s.pastNext).rx = s.rx := rfl
@[simp] theorem pastNext_txBuf (s : State) : (s.pastNext).txBuf = s.txBuf := rfl
@[simp] theorem pastNext_rxBuf (s : State) : (s.pastNext).rxBuf = s.rxBuf := rfl
@[simp] theorem pastNext_mem (s : State) : (s.pastNext).mem = s.mem := rfl
@[simp] theorem pastNext_env (s : State) : (s.pastNext).env = s.env := rfl

/-! ### `State.hostStored` -/

@[simp] theorem hostStored_cfg (a : Nat) (p : List Byte) (s : State) :
    (s.hostStored a p).cfg = s.cfg := rfl
@[simp] theorem hostStored_engine (a : Nat) (p : List Byte) (s : State) :
    (s.hostStored a p).engine = s.engine := rfl
@[simp] theorem hostStored_status (a : Nat) (p : List Byte) (s : State) :
    (s.hostStored a p).status = s.status := rfl
@[simp] theorem hostStored_result (a : Nat) (p : List Byte) (s : State) :
    (s.hostStored a p).result = s.result := rfl
@[simp] theorem hostStored_regs (a : Nat) (p : List Byte) (s : State) :
    (s.hostStored a p).regs = s.regs := rfl
@[simp] theorem hostStored_hdr (a : Nat) (p : List Byte) (s : State) :
    (s.hostStored a p).hdr = s.hdr := rfl
@[simp] theorem hostStored_frag (a : Nat) (p : List Byte) (s : State) :
    (s.hostStored a p).frag = s.frag := rfl
@[simp] theorem hostStored_fctx (a : Nat) (p : List Byte) (s : State) :
    (s.hostStored a p).fctx = s.fctx := rfl
@[simp] theorem hostStored_txLen (a : Nat) (p : List Byte) (s : State) :
    (s.hostStored a p).txLen = s.txLen := rfl
@[simp] theorem hostStored_rxLen (a : Nat) (p : List Byte) (s : State) :
    (s.hostStored a p).rxLen = s.rxLen := rfl
@[simp] theorem hostStored_rx (a : Nat) (p : List Byte) (s : State) :
    (s.hostStored a p).rx = s.rx := rfl
@[simp] theorem hostStored_txBuf (a : Nat) (p : List Byte) (s : State) :
    (s.hostStored a p).txBuf = s.txBuf := rfl
@[simp] theorem hostStored_rxBuf (a : Nat) (p : List Byte) (s : State) :
    (s.hostStored a p).rxBuf = s.rxBuf := rfl
@[simp] theorem hostStored_mem (a : Nat) (p : List Byte) (s : State) :
    (s.hostStored a p).mem = s.mem.writeBytes a p := rfl
@[simp] theorem hostStored_env (a : Nat) (p : List Byte) (s : State) :
    (s.hostStored a p).env = { s.env with
      raced := if s.busy then addressesFrom a p.length ++ s.env.raced else s.env.raced } := rfl

/-! ### `State.freeBytesRead`

It is unfolded first: `rfl` alone would first try whether it leaves the whole state as it is. -/

@[simp] theorem freeBytesRead_cfg (s : State) : s.freeBytesRead.cfg = s.cfg := by
  unfold State.freeBytesRead; rfl
@[simp] theorem freeBytesRead_engine (s : State) : s.freeBytesRead.engine = s.engine := by
  unfold State.freeBytesRead; rfl
@[simp] theorem freeBytesRead_status (s : State) : s.freeBytesRead.status = s.status := by
  unfold State.freeBytesRead; rfl
@[simp] theorem freeBytesRead_result (s : State) : s.freeBytesRead.result = s.result := by
  unfold State.freeBytesRead; rfl
@[simp] theorem freeBytesRead_regs (s : State) : s.freeBytesRead.regs = s.regs := by
  unfold State.freeBytesRead; rfl
@[simp] theorem freeBytesRead_hdr (s : State) : s.freeBytesRead.hdr = s.hdr := by
  unfold State.freeBytesRead; rfl
@[simp] theorem freeBytesRead_frag (s : State) : s.freeBytesRead.frag = s.frag := by
  unfold State.freeBytesRead; rfl
@[simp] theorem freeBytesRead_fctx (s : State) : s.freeBytesRead.fctx = s.fctx := by
  unfold State.freeBytesRead; rfl
@[simp] theorem freeBytesRead_txLen (s : State) : s.freeBytesRead.txLen = s.txLen := by
  unfold State.freeBytesRead; rfl
@[simp] theorem freeBytesRead_rxLen (s : State) : s.freeBytesRead.rxLen = s.rxLen := by
  unfold State.freeBytesRead; rfl
@[simp] theorem freeBytesRead_rx (s : State) : s.freeBytesRead.rx = s.rx := by
  unfold State.freeBytesRead; rfl
@[simp] theorem freeBytesRead_txBuf (s : State) : s.freeBytesRead.txBuf = s.freedTxBuf := by
  unfold State.freeBytesRead; rfl
@[simp] theorem freeBytesRead_rxBuf (s : State) : s.freeBytesRead.rxBuf = s.rxBuf := by
  unfold State.freeBytesRead; rfl
@[simp] theorem freeBytesRead_mem (s : State) : s.freeBytesRead.mem = s.mem := by
  unfold State.freeBytesRead; rfl
@[simp] theorem freeBytesRead_env (s : State) :
    s.freeBytesRead.env = { s.env with
      txLog := freePayloads s.cfg.maxFrame s.framesOffered s.env.draws s.env.txLog
      draws := s.env.draws + s.framesOffered * s.cfg.maxFrame } := by
  unfold State.freeBytesRead; rfl

end Sys2Proof.Machine
end

