-- ==== Sys2Proof/Laws/Ops.lean ====
section
/-! SUPPORT. What each shared operation can do, said once: issuing a command, host memory accesses, the
draws, the derived parameters, the preconditions of the receive commands and host register accesses. -/

namespace Sys2Proof.Machine

open Sys2Proof

/-! ### Command words -/

@[simp] theorem commandOf_word (c : Cmd) : commandOf c.word = some c := by cases c <;> decide

theorem eq_word_of_commandOf {w : Word} {c : Cmd} (h : commandOf w = some c) : w = c.word :=
  (eq_of_beq (List.find?_some (p := fun c => Cmd.word c == w) h)).symm

theorem commandOf_eq_none_iff {w : Word} : commandOf w = none ↔ ∀ c : Cmd, w ≠ c.word := by
  constructor
  · rintro h c rfl
    simp at h
  · intro h
    cases hc : commandOf w with
    | none => rfl
    | some c => exact absurd (eq_word_of_commandOf hc) (h c)

/-! ### Issuing a command -/

theorem busy_eq_false_iff {s : State} : s.busy = false ↔ s.engine = .idle := by
  simp [State.busy]

/-- While BUSY = 1 a command is lost. -/
theorem issue_of_busy {s : State} (h : s.busy = true) (op : Option Cmd)
    (body : State → Except Fault State) :
    issue op body s = .next { s with status.cmdOvr := true } := by
  simp [issue, h]

/-- A ready block runs the command's body. -/
theorem issue_of_ready {s : State} (h : s.Ready) (op : Option Cmd)
    (body : State → Except Fault State) : issue op body s = outcomeOf (body (s.begin op)) := by
  have hb := busy_eq_false_iff.2 h.1
  have ho : (s.begin op).overlapped = false := h.2
  simp [issue, hb, ho]

/-- With an outside move next, the engine only begins. -/
theorem issue_of_overlapped {s : State} (hb : s.engine = .idle) (ho : s.overlapped = true)
    (op : Option Cmd) (body : State → Except Fault State) :
    issue op body s = .next (s.begin op) := by
  have hb := busy_eq_false_iff.2 hb
  have ho : (s.begin op).overlapped = true := ho
  simp [issue, hb, ho]

/-- All that issuing can do. -/
theorem issue_cases {op : Option Cmd} {body : State → Except Fault State} {s t : State}
    (h : issue op body s = .next t) :
    (s.busy = true ∧ t = { s with status.cmdOvr := true }) ∨
    (s.engine = .idle ∧ s.overlapped = true ∧ t = s.begin op) ∨
    (s.Ready ∧ body (s.begin op) = .ok t) := by
  cases hb : s.busy with
  | true =>
    rw [issue_of_busy hb] at h
    exact .inl ⟨rfl, by simpa using h.symm⟩
  | false =>
    have he := busy_eq_false_iff.1 hb
    cases ho : s.overlapped with
    | true =>
      rw [issue_of_overlapped he ho] at h
      exact .inr (.inl ⟨he, rfl, by simpa using h.symm⟩)
    | false =>
      rw [issue_of_ready ⟨he, ho⟩] at h
      refine .inr (.inr ⟨⟨he, ho⟩, ?_⟩)
      cases hc : body (s.begin op) with
      | error f => rw [hc] at h; cases h
      | ok u => rw [hc] at h; cases h; rfl

/-! ### Host memory -/

theorem inRange_iff {a n : Nat} : inRange a n = true ↔ n = 0 ∨ a + n ≤ hostSpace := by
  simp [inRange]

@[simp] theorem length_freeBytes (draw n : Nat) : (freeBytes draw n).length = n := by
  simp [freeBytes]

/-- A read in range that no host store races with gives the bytes of memory and changes nothing. -/
theorem memRead_of_not_raced {s : State} {base len a n : Nat} (hr : inRange a n = true)
    (h : s.racedIn base len = false) : s.memRead base len a n = .ok (s.mem.hostBytes a n, s) := by
  simp [State.memRead, hr, h]

/-- All that a read can do: n bytes, and perhaps draws. -/
theorem memRead_cases {s t : State} {base len a n : Nat} {p : List Byte}
    (h : s.memRead base len a n = .ok (p, t)) :
    inRange a n = true ∧ p.length = n ∧
      ((s.racedIn base len = false ∧ p = s.mem.hostBytes a n ∧ t = s) ∨
        (s.racedIn base len = true ∧ p = freeBytes s.env.draws n ∧ t = s.drawn n)) := by
  unfold State.memRead at h
  split at h
  · rename_i hr
    split at h
    · rename_i hc
      cases h
      exact ⟨hr, length_freeBytes _ _, .inr ⟨hc, rfl, rfl⟩⟩
    · rename_i hc
      cases h
      exact ⟨hr, by simp, .inl ⟨by simpa using hc, rfl, rfl⟩⟩
  · cases h

theorem racedIn_of_unraced {s : State} (h : s.Unraced) (base len : Nat) :
    s.racedIn base len = false := by
  simp [State.racedIn, meets, show s.env.raced = [] from h]

/-- A write in range that no host store races with stores its bytes. -/
theorem memWrite_of_unraced {s : State} {a : Nat} {p : List Byte} (hr : inRange a p.length = true)
    (h : s.Unraced) : s.memWrite a p = .ok { s with mem := s.mem.writeBytes a p } := by
  simp [State.memWrite, hr, show s.env.raced = [] from h]

/-- All that a write can do: host memory changes, and perhaps draws are taken. -/
theorem memWrite_cases {s t : State} {a : Nat} {p : List Byte} (h : s.memWrite a p = .ok t) :
    inRange a p.length = true ∧
      ((s.Unraced ∧ t = { s with mem := s.mem.writeBytes a p }) ∨
        t = { s with mem := s.mem.raceBytes s.env.raced s.env.draws a p }.drawn p.length) := by
  unfold State.memWrite at h
  split at h
  · rename_i hr
    split at h
    · rename_i hc
      cases h
      exact ⟨hr, .inl ⟨hc, rfl⟩⟩
    · cases h
      exact ⟨hr, .inr rfl⟩
  · cases h

/-- A memory write keeps the canonical form and the address bound. -/
theorem wf_memWrite {s t : State} {a : Nat} {p : List Byte} (h : s.memWrite a p = .ok t)
    (hw : s.mem.wf = true) (hb : s.mem.below hostSpace = true) :
    t.mem.wf = true ∧ t.mem.below hostSpace = true := by
  obtain ⟨hr, ⟨-, rfl⟩ | rfl⟩ := memWrite_cases h
  all_goals
    rw [inRange_iff] at hr
    have hr' : p = [] ∨ a + p.length ≤ hostSpace := by simpa using hr
  · exact ⟨wf_writeBytes hw _ _, below_writeBytes hb hr'⟩
  · exact ⟨wf_raceBytes hw _ _ _ _, below_raceBytes hb _ _ hr'⟩

theorem reset_mem_wf : State.reset.mem.wf = true := rfl

/-! ### The host's accesses to its memory -/

@[simp] theorem length_addressesFrom (a n : Nat) : (addressesFrom a n).length = n := by
  simp [addressesFrom]

theorem mem_addressesFrom {a n x : Nat} : x ∈ addressesFrom a n ↔ a ≤ x ∧ x < a + n := by
  simp only [addressesFrom, List.mem_map, List.mem_range]
  constructor
  · rintro ⟨i, hi, rfl⟩
    omega
  · rintro ⟨h1, h2⟩
    exact ⟨x - a, by omega, by omega⟩

theorem meets_iff {l : List Nat} {base len : Nat} :
    meets l base len = true ↔ ∃ x ∈ l, base ≤ x ∧ x < base + len := by
  simp [meets]

/-- Freeing payloads leaves every fate. -/
@[simp] theorem map_fate_freePayloads (stride n draw : Nat) (log : List TxRecord) :
    (freePayloads stride n draw log).map (·.fate) = log.map (·.fate) := by
  induction n generalizing draw log with
  | zero => rfl
  | succ n ih => cases log <;> simp [freePayloads, freePayload, ih]

/-- Record k after freeing the n newest payloads. -/
theorem getElem?_freePayloads (stride n draw : Nat) (log : List TxRecord) (k : Nat) :
    (freePayloads stride n draw log)[k]? =
      if k < n then log[k]?.map (freePayload (draw + k * stride)) else log[k]? := by
  induction n generalizing draw log k with
  | zero => simp [freePayloads]
  | succ n ih =>
    cases log with
    | nil => simp [freePayloads]
    | cons r log =>
      cases k with
      | zero => simp [freePayloads]
      | succ k =>
        have hd : draw + stride + k * stride = draw + (k + 1) * stride := by
          rw [Nat.succ_mul]; omega
        simp [freePayloads, ih, hd]

/-- Reading the free bytes written from an address, or past them. -/
theorem readByte_writeBytes_freeBytes (m : Memory) (a draw n j : Nat) :
    (m.writeBytes a (freeBytes draw n)).readByte j =
      if a ≤ j ∧ j < a + n then some (freeByte (draw + (j - a))) else m.readByte j := by
  split
  · rename_i h
    obtain ⟨k, rfl⟩ := Nat.exists_eq_add_of_le h.1
    rw [readByte_writeBytes _ _ _ (by rw [length_freeBytes]; omega), Nat.add_sub_cancel_left]
    simp [freeBytes]
  · rename_i h
    exact readByte_writeBytes_of_not_mem _ _ _ (by rw [length_freeBytes]; omega)

/-- Every byte of TXBUF after a store has freed what SEND has read. -/
theorem readByte_freedTxBuf (s : State) (j : Nat) :
    s.freedTxBuf.readByte j =
      if headerSize ≤ j ∧ j < headerSize + (s.txLen.toNat - headerSize) then
        some (freeByte (s.env.draws + (j - headerSize)))
      else if headerSize ≤ j ∧ j < headerSize + s.priorPayload then
        some (freeByte (s.env.draws + s.cfg.maxFrame + (j - headerSize)))
      else s.txBuf.readByte j := by
  simp only [State.freedTxBuf, readByte_writeBytes_freeBytes]

/-- All that a host store can do. -/
theorem hostStore_cases {addr : Word} {bytes : List Byte} {s t : State}
    (h : hostStore addr bytes s = .next t) :
    inRange addr.toNat bytes.length = true ∧
      ((s.engine = .waitTx .send ∧
          meets (addressesFrom addr.toNat bytes.length) s.fctx.base.toNat s.fctx.len.toNat = true ∧
          t = (s.hostStored addr.toNat bytes).freeBytesRead) ∨
        (¬ (s.engine = .waitTx .send ∧
          meets (addressesFrom addr.toNat bytes.length) s.fctx.base.toNat s.fctx.len.toNat = true) ∧
          t = s.hostStored addr.toNat bytes)) := by
  unfold hostStore at h
  split at h
  · rename_i hr
    split at h
    · rename_i hc
      cases h
      exact ⟨hr, .inl ⟨hc.1, hc.2, rfl⟩⟩
    · rename_i hc
      cases h
      exact ⟨hr, .inr ⟨hc, rfl⟩⟩
  · cases h

/-- A racing load finds the old byte, or the new one where the write under way covers it. -/
theorem racingByte_cases (m : Memory) (w : Nat × List Byte) (draw a : Nat) :
    racingByte m w draw a = m.hostAt a ∨
      (w.1 ≤ a ∧ a < w.1 + w.2.length ∧ racingByte m w draw a = w.2.getD (a - w.1) 0) := by
  unfold racingByte
  split
  · rename_i h
    split
    · exact .inr ⟨h.1, h.2, rfl⟩
    · exact .inl rfl
  · exact .inl rfl

/-- All that a host load can do: only what the host has read, and the host's draws, change. -/
theorem hostLoad_cases {addr : Word} {n : Nat} {s t : State} (h : hostLoad addr n s = .next t) :
    inRange addr.toNat n = true ∧ ∃ (data : List Byte) (d : Nat),
      t = { s with env := { s.env with hostData := data, busyDraws := d } } ∧
      ((writeUnderWay s = none ∧ data = s.mem.hostBytes addr.toNat n) ∨
        ∃ w, writeUnderWay s = some w ∧ data = (List.range n).map
          (fun i => racingByte s.mem w (s.env.busyDraws + i) (addr.toNat + i))) := by
  unfold hostLoad at h
  split at h
  · rename_i hr
    split at h
    · rename_i hw
      cases h
      exact ⟨hr, _, s.env.busyDraws, rfl, .inl ⟨hw, rfl⟩⟩
    · rename_i w hw
      cases h
      exact ⟨hr, _, _, rfl, .inr ⟨w, hw, rfl⟩⟩
  · cases h

/-! ### The draw of a fragment identifier -/

/-- A draw changes the entropy source and the draw counter at most. -/
theorem draw16_cases (s : State) : ∃ (e : List Half) (n : Nat),
    (draw16 s).2 = { s with env := { s.env with entropy := e, draws := n } } := by
  unfold draw16
  split
  · exact ⟨_, _, rfl⟩
  · exact ⟨s.env.entropy, s.env.draws + 1, rfl⟩

/-! ### Derived parameters (00_scope.md R9, R10) -/

theorem payloadBudget_add (c : Config) : payloadBudget c + headerSize = c.maxFrame := by
  have := c.frame_lower
  unfold payloadBudget
  omega

theorem blockSize_le_payloadBudget (c : Config) : c.blockSize ≤ payloadBudget c := by
  have := c.frame_lower
  unfold payloadBudget
  omega

theorem blocksPerChunk_pos (c : Config) : 0 < blocksPerChunk c :=
  Nat.div_pos (blockSize_le_payloadBudget c) c.block_pos

/-- "fragmentation always advances" (R9). -/
theorem chunkStep_pos (c : Config) (align : Bool) : 0 < chunkStep c align := by
  have h1 := blockSize_le_payloadBudget c
  have h2 := c.block_pos
  unfold chunkStep
  split
  · exact Nat.mul_pos (blocksPerChunk_pos c) h2
  · omega

theorem chunkStep_le (c : Config) (align : Bool) : chunkStep c align ≤ payloadBudget c := by
  unfold chunkStep
  split
  · exact Nat.div_mul_le_self _ _
  · exact Nat.le_refl _

/-- A full chunk advances the offset by K blocks in both modes. -/
theorem chunkStep_div (c : Config) (align : Bool) :
    chunkStep c align / c.blockSize = blocksPerChunk c := by
  unfold chunkStep
  split
  · exact Nat.mul_div_cancel _ c.block_pos
  · rfl

theorem frameCount_pos (c : Config) (len : Nat) (align : Bool) : 0 < frameCount c len align := by
  have h := chunkStep_pos c align
  unfold frameCount ceilDiv
  split
  · exact Nat.one_pos
  · exact Nat.div_pos (by omega) h

/-- A full chunk's payload fits in TXBUF behind the header. -/
theorem priorPayload_le (s : State) : s.priorPayload ≤ payloadBudget s.cfg := by
  unfold State.priorPayload
  split
  · exact chunkStep_le _ _
  · exact Nat.zero_le _

/-- Freeing what SEND has read keeps TXBUF's canonical form and its bound. -/
theorem wf_freedTxBuf {s : State} (hw : s.txBuf.wf = true) (hb : s.txBuf.below s.cfg.maxFrame = true)
    (hl : s.txLen.toNat ≤ s.cfg.maxFrame) :
    s.freedTxBuf.wf = true ∧ s.freedTxBuf.below s.cfg.maxFrame = true := by
  have h1 := priorPayload_le s
  have h2 := payloadBudget_add s.cfg
  have hfit : ∀ d n, headerSize + n ≤ s.cfg.maxFrame →
      freeBytes d n = [] ∨ headerSize + (freeBytes d n).length ≤ s.cfg.maxFrame :=
    fun d n h => .inr (by simpa using h)
  exact ⟨wf_writeBytes (wf_writeBytes hw _ _) _ _,
    below_writeBytes (below_writeBytes hb (hfit _ _ (by omega))) (hfit _ _ (by omega))⟩

theorem nextPlen_le (s : State) : s.nextPlen ≤ payloadBudget s.cfg :=
  Nat.le_trans (Nat.min_le_left _ _) (chunkStep_le _ _)

/-! ### The header -/

@[simp] theorem length_packNat (o : WireOrder) (n v : Nat) : (packNat o n v).length = n := by
  cases o <;> simp [packNat]

@[simp] theorem length_packHeader (o : WireOrder) (h : Header) : (packHeader o h).length = headerSize := by
  simp [packHeader, h.dest.length_eq, h.src.length_eq, pack16, pack32, addrBytes, headerSize]

/-! ### Starting a message -/

/-- All that starting a message does when it raises nothing: the checks held, and the context is latched. -/
theorem startMessage_cases {s t : State} (h : startMessage s = .ok t) :
    s.regs.localValid = true ∧ inRange s.regs.msgBase.toNat s.regs.msgLen.toNat = true ∧
    tooLong s.cfg s.regs.msgLen.toNat s.regs.align = false ∧
    ∃ (v : Half) (e : List Half) (n : Nat), t = { s with
      fctx := s.regs.context v
      frag := ⟨v, 0, 0⟩
      status.fragActive := true
      env := { s.env with entropy := e, draws := n } } := by
  unfold startMessage at h
  split at h
  · cases h
  · rename_i h1
    split at h
    · cases h
    · rename_i h2
      split at h
      · cases h
      · rename_i h3
        refine ⟨by simpa using h1, by simpa using h2, by simpa using h3, ?_⟩
        obtain ⟨e, n, hd⟩ := draw16_cases s
        revert h hd
        rcases draw16 s with ⟨v, u⟩
        rintro h rfl
        cases h
        exact ⟨v, e, n, rfl⟩

/-! ### The next frame -/

/-- All that building the next frame does when it succeeds: it is read, staged and passed. -/
theorem nextFrame_cases {s t : State} (h : nextFrame s = .ok t) :
    ∃ (p : List Byte) (n : Nat), p.length = s.nextPlen ∧
      t = (s.drawn n).pastNext.stage (encodeFrame s.cfg.wireOrder s.nextHeader p) := by
  unfold nextFrame at h
  split at h
  · cases h
  · rename_i p u hm
    obtain ⟨-, hp, ⟨-, -, rfl⟩ | ⟨-, -, rfl⟩⟩ := memRead_cases hm
    · cases h
      exact ⟨p, 0, hp, rfl⟩
    · cases h
      exact ⟨p, _, hp, rfl⟩

/-! ### The receive commands -/

/-- RX_PROCESS and RX_STEP run with a resolved local address in AWAITING_FRAME. -/
theorem rxRefusal_eq_none_iff {s : State} :
    rxRefusal s = none ↔ s.regs.localValid = true ∧ s.status.rxState = .awaitingFrame := by
  unfold rxRefusal
  cases s.regs.localValid <;> simp

/-- A decoded payload has the length its header declares. -/
theorem length_of_decodeFrame {o : WireOrder} {c : List Byte} {h : Header} {p : List Byte}
    (hd : decodeFrame o c = some (h, p)) : p.length = h.payloadLength.toNat := by
  unfold decodeFrame at hd
  split at hd
  · cases hd
  · split at hd
    · cases hd
    · cases hd
      simp only [slice, List.length_take, List.length_drop]
      omega

theorem length_of_verdict {s : State} {cand : List Byte} {h : Header} {p : List Byte}
    (hv : s.verdict cand = .accept h p) : p.length = h.payloadLength.toNat := by
  unfold State.verdict classify at hv
  split at hv
  · cases hv
  · rename_i hd
    split_ifs at hv
    cases hv
    exact length_of_decodeFrame hd

/-- All that an arrival can do when it answers: a code and LAST_DROP are written; an accepted frame that
fits may store its payload, and only then may RX_TOTAL change; an accepted frame may end the instance. -/
theorem arrival_cases {cand : List Byte} {s t : State} (h : arrival cand s = .ok t) :
    ∃ (code : ResultCode) (drop : DropReason),
      t = { s with status.lastDrop := drop }.finish code ∨
      t = { s with status.lastDrop := drop, status.rxState := .aborted }.finish code ∨
      ∃ (a : Nat) (p : List Byte) (u : State),
        s.rx.outBase.toNat ≤ a ∧ a + p.length ≤ s.rx.outBase.toNat + s.rx.outCap.toNat ∧
        { s with status.lastDrop := drop }.memWrite a p = .ok u ∧
        (t = u.finish code ∨ ∃ total : Word,
          t = { u with status.rxState := .complete, rx.total := total }.finish code) := by
  unfold arrival at h
  split at h
  · cases h
    exact ⟨_, .none, .inl rfl⟩
  · rename_i r _
    cases h
    exact ⟨_, r, .inl rfl⟩
  · rename_i hd p hv
    have hp : p.length = hd.payloadLength.toNat := length_of_verdict hv
    split at h
    · cases h
      exact ⟨_, .none, .inr (.inl rfl)⟩
    · rename_i hcap
      split at h
      · cases h
      · rename_i u hu
        have hle : s.rx.outBase.toNat + payloadStart s.cfg hd + p.length
            ≤ s.rx.outBase.toNat + s.rx.outCap.toNat := by
          unfold payloadEnd at hcap
          omega
        split at h
        · cases h
          exact ⟨_, .none, .inr (.inr ⟨_, p, u, Nat.le_add_right _ _, hle, hu, .inl rfl⟩)⟩
        · cases h
          exact ⟨_, .none, .inr (.inr ⟨_, p, u, Nat.le_add_right _ _, hle, hu, .inr ⟨_, rfl⟩⟩)⟩

theorem sendAccepted_iff {a : TxAnswer} {w : Word} :
    sendAccepted a w = true ↔ a = .accepted w.toNat := by
  cases a <;> simp [sendAccepted]

/-! ### Host register accesses -/

/-- What a word written to CMD does when it is a command's. -/
theorem writeCmd_word (c : Cmd) (s : State) : writeCmd c.word s = exec (Instr.ofCmd c) s := by
  unfold writeCmd
  rw [commandOf_word]
  cases c <;> rfl

/-- What a read while BUSY = 1 leaves. -/
theorem regRead_of_busy {s : State} (h : s.busy = true) (index : BitVec 12) :
    exec (.regRead index) s = .next { s with env := { s.env with
      busData := s.busyReadTarget (targetOf index)
      busyDraws := s.env.busyDraws + 1 } } := by
  simp [exec, execRegRead, h]

/-- What a read while BUSY = 0 leaves. -/
theorem regRead_of_idle {s : State} (h : s.engine = .idle) (index : BitVec 12) :
    exec (.regRead index) s = .next { s with env := { s.env with
      busData := s.readTarget (targetOf index)
      draws := s.env.draws + readDraws (targetOf index) } } := by
  simp [exec, execRegRead, busy_eq_false_iff.2 h, State.drawn]

/-- A write of a target other than CMD while BUSY = 0. -/
theorem regWrite_of_idle {s : State} (he : s.engine = .idle) {index : BitVec 12} {t : Target}
    (ht : targetOf index = t) (hc : t ≠ .cmd) (data : Word) :
    exec (.regWrite index data) s = .next (s.writeTarget data t) := by
  subst ht
  have hb := busy_eq_false_iff.2 he
  simp only [exec, execRegWrite]
  split
  · contradiction
  · rename_i h
    rw [h]
    rfl
  · simp [hb]

/-- A register write leaves the engine, memory, the transmit side and the surroundings alone. -/
theorem writeTarget_frame (s : State) (data : Word) (t : Target) :
    (s.writeTarget data t).cfg = s.cfg ∧ (s.writeTarget data t).engine = s.engine ∧
    (s.writeTarget data t).result = s.result ∧ (s.writeTarget data t).frag = s.frag ∧
    (s.writeTarget data t).fctx = s.fctx ∧ (s.writeTarget data t).txLen = s.txLen ∧
    (s.writeTarget data t).rx = s.rx ∧ (s.writeTarget data t).txBuf = s.txBuf ∧
    (s.writeTarget data t).mem = s.mem ∧ (s.writeTarget data t).env = s.env := by
  cases t <;> simp only [State.writeTarget, State.writeStatus] <;> try split_ifs
  all_goals simp

end Sys2Proof.Machine
end

