-- ==== Sys2Proof/Laws/PerInstr.lean ====
section
/-! SUPPORT. Facts about each instruction as syntax, one lemma per constructor. -/

namespace Sys2Proof.Laws.Encoded

open Sys2Proof

/-- The encoding has the width of the instruction's row of the opcode table: 4 bytes for a command word
(30_encoding.md R100), 6 bytes with the three highest bits clear for a 45-bit transaction (R102). -/
def Statement (i : Instr) : Prop :=
  ((encode i).length = 4 ∨ (encode i).length = 6) ∧ leNat (encode i) < 2 ^ 45

theorem encode : Statement .encode := by unfold Statement; decide
theorem decode : Statement .decode := by unfold Statement; decide
theorem fragStart : Statement .fragStart := by unfold Statement; decide
theorem fragNext : Statement .fragNext := by unfold Statement; decide
theorem xmit : Statement .xmit := by unfold Statement; decide
theorem send : Statement .send := by unfold Statement; decide
theorem rxInit : Statement .rxInit := by unfold Statement; decide
theorem recv : Statement .recv := by unfold Statement; decide
theorem rxProcess : Statement .rxProcess := by unfold Statement; decide
theorem rxStep : Statement .rxStep := by unfold Statement; decide

theorem regRead (index : BitVec 12) : Statement (.regRead index) := by
  have h := (transactionBits 0#1 index 0#32).isLt
  refine ⟨.inr (length_leBytes 6 _), ?_⟩
  rw [Sys2Proof.encode, leNat_leBytes_of_lt (Nat.lt_trans h (by decide))]
  exact h

theorem regWrite (index : BitVec 12) (data : Word) : Statement (.regWrite index data) := by
  have h := (transactionBits 1#1 index data).isLt
  refine ⟨.inr (length_leBytes 6 _), ?_⟩
  rw [Sys2Proof.encode, leNat_leBytes_of_lt (Nat.lt_trans h (by decide))]
  exact h

end Sys2Proof.Laws.Encoded
end

