-- ==== Sys2Proof/Tests/Slice0.lean ====
section
/-! SUPPORT. Tests: terms the well-formedness checks refuse, words decoded from the spec's encodings, single
steps with the results of spec/95_test_vectors.md, and a witness for the hypotheses of every obligation. -/

namespace Sys2Proof.Tests

/- Each kernel evaluation below waits for the theorems before it, so they are elaborated one after another
rather than each in a thread of its own. -/
set_option Elab.async false

open Sys2Proof Sys2Proof.Machine

/-- One observation of a next state. -/
def seen {α : Type} (o : Result) (f : State → α) : Option α :=
  match o with
  | .next s => some (f s)
  | .fault _ => none
  | .refused _ => none

/-! ### Well-formedness -/

/-- 00_scope.md R9: 51 + BLOCK_SIZE ≤ MAX_FRAME_SIZE. -/
theorem test_build_refuses_a_short_frame :
    Config.build 54 4 .le = none ∧ (Config.build 55 4 .le).isSome = true := by decide

/-- 00_scope.md R9: MAX_FRAME_SIZE ≤ 4096. -/
theorem test_build_refuses_a_long_frame :
    Config.build 4097 4 .le = none ∧ (Config.build 4096 4 .le).isSome = true := by decide

/-- 00_scope.md R8: BLOCK_SIZE ≥ 1. -/
theorem test_build_refuses_an_empty_block :
    Config.build 950 0 .le = none ∧ (Config.build 950 1 .be).isSome = true := by decide

theorem test_build_gives_the_reference_configuration :
    Config.build 950 4 .le = some Config.ref := by decide

/-- 30_encoding.md R102: dir is one bit. -/
theorem test_transaction_refuses_a_wide_dir :
    (⟨2, 3, 3⟩ : Transaction).wf = false ∧ (⟨2, 3, 3⟩ : Transaction).toInstr = none := by decide

/-- 30_encoding.md R102: index has 12 bits. -/
theorem test_transaction_refuses_a_wide_index :
    (⟨1, 0x1000, 3⟩ : Transaction).wf = false ∧
    (⟨1, 0xFFF, 3⟩ : Transaction).toInstr = some (.regWrite 0xFFF 3) := by decide

/-- 30_encoding.md R102: data has 32 bits. -/
theorem test_transaction_refuses_wide_data :
    (⟨1, 3, 0x100000000⟩ : Transaction).wf = false ∧
    (⟨0, 3, 0⟩ : Transaction).toInstr = some (.regRead 3) := by decide

/-! ### Decoding: the words of 30_encoding.md R101, and 45-bit patterns of 95_test_vectors.md -/

theorem test_decode_encode : decodeTableWord 32 0x00000001 = some .encode := by decide
theorem test_decode_decode : decodeTableWord 32 0x00000002 = some .decode := by decide
theorem test_decode_fragStart : decodeTableWord 32 0x00000010 = some .fragStart := by decide
theorem test_decode_fragNext : decodeTableWord 32 0x00000011 = some .fragNext := by decide
theorem test_decode_xmit : decodeTableWord 32 0x00000012 = some .xmit := by decide
theorem test_decode_send : decodeTableWord 32 0x00000013 = some .send := by decide
theorem test_decode_rxInit : decodeTableWord 32 0x00000020 = some .rxInit := by decide
theorem test_decode_recv : decodeTableWord 32 0x00000021 = some .recv := by decide
theorem test_decode_rxProcess : decodeTableWord 32 0x00000022 = some .rxProcess := by decide
theorem test_decode_rxStep : decodeTableWord 32 0x00000023 = some .rxStep := by decide

/-- `RD TXBUF[9]` (95_test_vectors.md P1). -/
theorem test_decode_regRead : decodeTableWord 48 0x040900000000 = some (.regRead 0x409) := by decide

/-- `WR RXBUF[9], ...` (95_test_vectors.md P1). -/
theorem test_decode_regWrite :
    decodeTableWord 48 0x180903123407 = some (.regWrite 0x809 0x03123407) := by decide

/-- V-HA-5: words outside the ten commands. -/
theorem test_decode_illegal : [0x00000000, 0x00000003, 0x000000FF, 0x00000110, 0x80000001].all
    (fun w => decodeTableWord 32 w == none) = true := by decide

/-- A transaction has 45 bits. -/
theorem test_decode_above_bit_44 : decodeTableWord 48 0x200000000000 = none := by decide

/-- SETADDR REMOTE_ADDR, "11:22:33:44:55:66" (95_test_vectors.md P5). -/
theorem test_expand_setAddr : ((Stmt.setAddr 0x00C
    [0x31, 0x31, 0x3A, 0x32, 0x32, 0x3A, 0x33, 0x33, 0x3A, 0x34, 0x34, 0x3A, 0x35, 0x35, 0x3A,
      0x36, 0x36]).expand.map (fun i => leNat (encode i))) =
    [0x100C323A3131, 0x100D33333A32, 0x100E3A34343A, 0x100F363A3535, 0x101000000036] := by
  decide +kernel

/-- `CMD SEND` is 0x100000000013 (95_test_vectors.md section 0). -/
theorem test_expand_cmd :
    ((Stmt.cmd .send).expand.map (fun i => leNat (encode i))) = [0x100000000013] := by
  decide

/-! ### Addresses, frames and states of 95_test_vectors.md -/

/-- "AA:BB:CC:DD:EE:FF" and 00. -/
def addrA : Addr := ⟨[0x41, 0x41, 0x3A, 0x42, 0x42, 0x3A, 0x43, 0x43, 0x3A, 0x44, 0x44, 0x3A,
  0x45, 0x45, 0x3A, 0x46, 0x46, 0x00], by decide⟩

/-- "11:22:33:44:55:66" and 00. -/
def addrB : Addr := ⟨[0x31, 0x31, 0x3A, 0x32, 0x32, 0x3A, 0x33, 0x33, 0x3A, 0x34, 0x34, 0x3A,
  0x35, 0x35, 0x3A, 0x36, 0x36, 0x00], by decide⟩

/-- "11:22:33:44:55:67" and 00. -/
def addrC : Addr := ⟨[0x31, 0x31, 0x3A, 0x32, 0x32, 0x3A, 0x33, 0x33, 0x3A, 0x34, 0x34, 0x3A,
  0x35, 0x35, 0x3A, 0x36, 0x37, 0x00], by decide⟩

/-- A block of CFG-SMALL after reset. -/
def fresh : State := State.resetWith Config.small [] Env.start

/-- The header registers of V-CO-1. -/
def headerCO1 : Header := ⟨addrB, addrA, 0x07, 0x1234, 3, 0xBEEF, 0x8005, 0xDEADBEEF⟩

/-- The 54-byte frame of V-CO-1. -/
def frameCO1 : List Byte := addrB.bytes ++ addrA.bytes ++
  [0x07, 0x34, 0x12, 0x03, 0x00, 0x00, 0x00, 0xEF, 0xBE, 0x05, 0x80, 0xEF, 0xBE, 0xAD, 0xDE,
    0x41, 0x42, 0x43]

/-- The state before ENCODE of V-CO-1. -/
def encodeCO1 : State :=
  { fresh with hdr := headerCO1, regs.msgBase := 0x1000, mem := Memory.writeBytes [] 0x1000 [0x41, 0x42, 0x43] }

/-- A frame candidate in RXBUF. -/
def holding (frame : List Byte) (s : State) : State :=
  { s with rxBuf := s.rxBuf.writeBytes 0 frame, rxLen := BitVec.ofNat 32 frame.length }

/-- Node A of P5 with SEND's operands: L = 20, aligned mode, draw 0x5A5A. -/
def sender : State :=
  { fresh with
    regs := ⟨true, true, 0x1234, 0x00, addrA, addrB, 0x1000, 20, 0, 0⟩
    mem := Memory.writeBytes [] 0x1000 ((List.range 20).map (fun i => BitVec.ofNat 8 (0x40 + i)))
    env.entropy := [0x5A5A] }

/-- The sender with a message in progress, one frame produced. -/
def sending : State :=
  { sender with
    fctx := ⟨addrA, addrB, 0x1234, 0x00, 0x1000, 20, true, 0x5A5A⟩
    frag := ⟨0x5A5A, 8, 2⟩
    status.fragActive := true }

/-- A block with a staged 54-byte frame. -/
def staged : State :=
  { fresh with txBuf := Memory.writeBytes [] 0 frameCO1, txLen := 54, status.txValid := true }

/-- A receiver with local address B and protocol 0x1234 in AWAITING_FRAME, its output at 0x3000. -/
def receiver (capacity : Word) : State :=
  { fresh with
    regs := ⟨true, false, 0x1234, 0x00, addrB, Addr.zero, 0, 0, 0x3000, capacity⟩
    rx := ⟨0, 0x3000, capacity⟩
    status.rxState := .awaitingFrame }

/-- A frame of 95_test_vectors.md P3, from its addresses, its bytes 36 .. 50 and its payload. -/
def frameOf (dest src : Addr) (middle payload : List Byte) : List Byte :=
  dest.bytes ++ src.bytes ++ middle ++ payload

/-- F2 of P3: the receiver's own source. -/
def frameF2 : List Byte := frameOf addrB addrB
  [0x00, 0x34, 0x12, 0x02, 0x00, 0x00, 0x00, 0xEF, 0xBE, 0x00, 0x80, 0x00, 0x00, 0x00, 0x00]
  [0x01, 0x02]

/-- F7 of P3: the last fragment, offset 1 block. -/
def frameF7 : List Byte := frameOf addrB addrA
  [0x00, 0x34, 0x12, 0x03, 0x00, 0x00, 0x00, 0x11, 0x11, 0x01, 0x00, 0x00, 0x00, 0x00, 0x00]
  [0x05, 0x06, 0x07]

/-- G2 of P4: end 9. -/
def frameG2 : List Byte := frameOf addrB addrA
  [0x00, 0x34, 0x12, 0x05, 0x00, 0x00, 0x00, 0xEF, 0xBE, 0x01, 0x00, 0x00, 0x00, 0x00, 0x00]
  [0xB1, 0xB2, 0xB3, 0xB4, 0xB5]

/-- T1 of P5: the second frame of the message. -/
def frameT1 : List Byte := frameOf addrB addrA
  [0x00, 0x34, 0x12, 0x08, 0x00, 0x00, 0x00, 0x5A, 0x5A, 0x02, 0x80, 0x00, 0x00, 0x00, 0x00]
  [0x48, 0x49, 0x4A, 0x4B, 0x4C, 0x4D, 0x4E, 0x4F]

/-- T2 of P5: the last frame of the message. -/
def frameT2 : List Byte := frameOf addrB addrA
  [0x00, 0x34, 0x12, 0x04, 0x00, 0x00, 0x00, 0x5A, 0x5A, 0x04, 0x00, 0x00, 0x00, 0x00, 0x00]
  [0x50, 0x51, 0x52, 0x53]

/-! ### One step each -/

/-- V-CO-1: OK, TXLEN = 54, STATUS = 0x20 and the frame's bytes. -/
theorem test_encode : seen (exec .encode encodeCO1)
    (fun t => (t.txBuf.map (·.2), t.txLen, t.statusWord, t.result)) =
    some (frameCO1, 54, 0x20, .ok) := by decide +kernel

/-- V-CO-4: HDR_PLEN = 10 with MSG_BASE = 0xFFFFFFFF is FRAME_TOO_LONG; HDR_PLEN = 2 is RANGE_ERROR. -/
theorem test_encode_errors :
    seen (exec .encode { fresh with hdr.payloadLength := 10, regs.msgBase := 0xFFFFFFFF })
      (fun t => (t.result, t.txLen)) = some (.frameTooLong, 0) ∧
    seen (exec .encode { fresh with hdr.payloadLength := 2, regs.msgBase := 0xFFFFFFFF })
      (fun t => (t.result, t.status.txValid)) = some (.rangeError, false) := by decide +kernel

/-- V-CO-3: the whole frame decodes to the header of V-CO-1. -/
theorem test_decode_frame : seen (exec .decode (holding frameCO1 fresh))
    (fun t => (t.hdr, t.result)) = some (headerCO1, .ok) := by decide +kernel

/-- V-CO-3: s0[0 ..< 53] is malformed and HDR_PLEN keeps its old value. -/
theorem test_decode_short : seen (exec .decode (holding (frameCO1.take 53)
      { fresh with hdr.payloadLength := 2 })) (fun t => (t.hdr.payloadLength, t.result)) =
    some (2, .malformedFrame) := by decide +kernel

/-- P2: after FRAG_START STATUS = 0x10 and FRAG_ID is the draw. -/
theorem test_fragStart : seen (exec .fragStart { sender with env.entropy := [0xBEEF] })
    (fun t => (t.statusWord, t.frag, t.result)) = some (0x10, ⟨0xBEEF, 0, 0⟩, .ok) := by
  decide +kernel

/-- V-FR-4: LOCAL_VALID = 0 comes before the range check, and no entropy is drawn. -/
theorem test_fragStart_unresolved : seen (exec .fragStart { sender with
      regs.localValid := false, regs.msgBase := 0xFFFFFFFF, regs.msgLen := 2 })
    (fun t => (t.result, t.status.fragActive, t.env.entropy)) =
    some (.addressResolutionError, false, [0x5A5A]) := by decide +kernel

/-- P5: the second frame is T1; then FRAG_CURSOR = 16 and FRAG_OFFBLK = 4. -/
theorem test_fragNext : seen (exec .fragNext sending)
    (fun t => (t.txBuf.map (·.2), t.frag, t.status.fragActive)) =
    some (frameT1, ⟨0x5A5A, 16, 4⟩, true) := by decide +kernel

/-- V-FR-2, reference mode, L = 20: the last frame is (2, 0x0004, 53); then FRAG_OFFBLK = 4 (P2). -/
theorem test_fragNext_reference_last : seen (exec .fragNext { sending with
      fctx.align := false, frag.cursor := 18, frag.offblk := 4 })
    (fun t => (t.txLen, (t.txBuf.map (·.2)).drop 45 |>.take 2, t.frag.offblk, t.status.fragActive)) =
    some (53, [0x04, 0x00], 4, false) := by decide +kernel

/-- V-FR-6: a frame of 54 bytes answered 54. -/
theorem test_xmit : seen (exec .xmit { staged with env.txAnswers := [.accepted 54] })
    (fun t => (t.result, t.status.txValid, t.env.txLog.map (·.frame))) =
    some (.ok, false, [frameCO1]) := by decide +kernel

/-- V-FR-6: answered 20. -/
theorem test_xmit_short : seen (exec .xmit { staged with env.txAnswers := [.accepted 20] })
    (fun t => (t.result, t.status.txValid)) = some (.transportError, false) := by decide +kernel

/-- V-FR-7: answers 59, 59, 55. The frames end with T1 and T2. -/
theorem test_send : seen (exec .send { sender with
      env.txAnswers := [.accepted 59, .accepted 59, .accepted 55] })
    (fun t => ((t.result, t.frag), (t.txLen, t.statusWord), (t.env.txLog.map (·.frame)).take 2)) =
    some ((.ok, ⟨0x5A5A, 20, 5⟩), (55, 0x00), [frameT2, frameT1]) := by decide +kernel

/-- V-FR-7: answers 59, then 20. -/
theorem test_send_fails : seen (exec .send { sender with
      env.txAnswers := [.accepted 59, .accepted 20] })
    (fun t => (t.result, t.frag.cursor, t.frag.offblk, t.statusWord, t.env.txLog.length)) =
    some (.transportError, 16, 4, 0x00, 2) := by decide +kernel

/-- V-RX-3: OUT_BASE = 0xFFFFFFF0 with OUT_CAP = 0x10. -/
theorem test_rxInit : seen (exec .rxInit { fresh with
      regs.localValid := true, regs.outBase := 0xFFFFFFF0, regs.outCap := 0x10 })
    (fun t => (t.result, t.statusWord, t.rx)) =
    some (.ok, 0x04, ⟨0, 0xFFFFFFF0, 0x10⟩) := by decide +kernel

/-- V-RX-3: OUT_CAP = 0x11. -/
theorem test_rxInit_range : seen (exec .rxInit { fresh with
      regs.localValid := true, regs.outBase := 0xFFFFFFF0, regs.outCap := 0x11 })
    (fun t => (t.result, t.status.rxState)) = some (.rangeError, .idle) := by decide +kernel

/-- V-RX-4: a delivery is taken with no instance and no local address. -/
theorem test_recv : seen (exec .recv { fresh with env.rxQueue := [.delivered frameF7] })
    (fun t => (t.result, t.rxLen, t.rxBuf.map (·.2))) = some (.ok, 54, frameF7) := by decide +kernel

/-- V-RX-4: ERR leaves RXLEN. -/
theorem test_recv_error : seen (exec .recv { fresh with rxLen := 7, env.rxQueue := [.err] })
    (fun t => (t.result, t.rxLen)) = some (.transportError, 7) := by decide +kernel

/-- V-RX-1 row b: the loopback test comes before the destination test; P3: STATUS = 0x84. -/
theorem test_rxProcess_loopback : seen (exec .rxProcess (holding frameF2 (receiver 16)))
    (fun t => (t.result, t.statusWord, t.mem)) = some (.incomplete, 0x84, []) := by decide +kernel

/-- V-RX-2: end 9 with capacity 8 aborts and writes nothing; P4: STATUS = 0x0C. -/
theorem test_rxProcess_overflow : seen (exec .rxProcess (holding frameG2 (receiver 8)))
    (fun t => (t.result, t.statusWord, t.mem)) = some (.bufferOverflow, 0x0C, []) := by
  decide +kernel

/-- P3 F7: the last fragment completes with RX_TOTAL = 7 and lands at byte 4. -/
theorem test_rxStep : seen (exec .rxStep { receiver 16 with env.rxQueue := [.delivered frameF7] })
    (fun t => (t.result, t.statusWord, t.rx.total, t.mem)) =
    some (.complete, 0x08, 7, [(0x3004, 0x05), (0x3005, 0x06), (0x3006, 0x07)]) := by decide +kernel

/-- V-RX-3: a transport error keeps AWAITING_FRAME. -/
theorem test_rxStep_error : seen (exec .rxStep { receiver 16 with env.rxQueue := [.err] })
    (fun t => (t.result, t.statusWord)) = some (.transportError, 0x04) := by decide +kernel

/-- V-CO-1: window word 9 holds bytes 36 .. 39, and 12 ends with the first payload byte. -/
theorem test_regRead_window :
    seen (exec (.regRead 0x409) staged) (fun t => t.env.busData) = some 0x03123407 ∧
    seen (exec (.regRead 0x40C) staged) (fun t => t.env.busData) = some 0x41DEADBE := by
  decide +kernel

/-- V-HA-4: in CFG-SMALL a read of RXBUF[15] returns 0. V-HA-1: so does offset 0x0C8. -/
theorem test_regRead_zero :
    seen (exec (.regRead 0x80F) fresh) (fun t => t.env.busData) = some 0 ∧
    seen (exec (.regRead 0x032) fresh) (fun t => t.env.busData) = some 0 := by decide +kernel

/-- V-HA-2: WR HDR_DEST4, 0x12345678 keeps 0x5678, and WR CTRL keeps two bits. -/
theorem test_regWrite_masks :
    seen (exec (.regWrite 0x024 0x12345678) fresh) (fun t => t.readTarget (.hdrDest 4)) =
      some 0x00005678 ∧
    seen (exec (.regWrite 0x003 0xFFFFFFFF) fresh) (fun t => t.readTarget .ctrl) = some 0x3 := by
  decide +kernel

/-- V-HA-4: in CFG-SMALL WR RXBUF[14] writes bytes 56 .. 59, lowest byte first. -/
theorem test_regWrite_window : seen (exec (.regWrite 0x80E 0xDDCCBBAA) fresh) (fun t => t.rxBuf) =
    some [(56, 0xAA), (57, 0xBB), (58, 0xCC), (59, 0xDD)] := by decide +kernel

/-- V-HA-5: an illegal word gives ILLEGAL_COMMAND with nothing else changed. -/
theorem test_illegal_command : seen (exec (.regWrite 0x000 0x00000110) fresh) id =
    some { fresh with result := .illegalCommand } := by decide +kernel

/-- V-HA-6: RECV waits, and a command written meanwhile is lost. -/
theorem test_lost_command : seen (exec .recv fresh) (fun t => t.engine) = some (.waitRx .recv) ∧
    seen (exec .encode { fresh with engine := .waitRx .recv })
      (fun t => (t.busy, t.status.cmdOvr, t.result)) = some (true, true, .ok) := by decide +kernel

/-- V-HA-6: the delivery then ends RECV with STATUS = 0x02. -/
theorem test_delivery_ends_the_wait : seen (step { fresh with
      engine := .waitRx .recv
      status.cmdOvr := true
      env.rxQueue := [.delivered (List.replicate 20 0)] })
    (fun t => (t.result, t.rxLen, t.statusWord)) = some (.ok, 20, 0x02) := by decide +kernel

/-- The first instruction after reset: `WR CTRL, 3` is 0x100300000003. -/
theorem test_first_step : seen (step (State.reset.withFetchWord 48 0x100300000003))
    (fun t => (t.regs.localValid, t.regs.align)) = some (true, true) := by decide +kernel

/-- V-CO-2: bytes 36 .. 50 of a header in the other byte order. -/
theorem test_big_endian_header :
    (packHeader .be ⟨addrB, addrA, 0, 0x1234, 899, 0xBEEF, 0x8000, 0⟩).drop 36 =
    [0x00, 0x12, 0x34, 0x00, 0x00, 0x03, 0x83, 0xBE, 0xEF, 0x80, 0x00, 0x00, 0x00, 0x00, 0x00] := by
  decide +kernel

/-- V-FR-3: the longest accepted messages. -/
theorem test_too_long :
    tooLong Config.ref 132153 false = false ∧ tooLong Config.ref 132154 false = true ∧
    tooLong Config.ref 131712 true = false ∧ tooLong Config.ref 131713 true = true ∧
    tooLong Config.small 147456 false = false ∧ tooLong Config.small 147457 false = true := by
  decide

/-! ### Witnesses: states and operands that meet the hypotheses of each obligation -/

/-- A block waiting for a delivery. -/
def receiving : State := { fresh with engine := .waitRx .recv }

/-- A block with XMIT's frame offered and no answer yet. -/
def transmitting : State :=
  { staged with engine := .waitTx .xmit, env.txLog := [⟨frameCO1, .pending⟩] }

/-- A state whose next outside move overlaps the command. -/
def crowded : State := { fresh with env.schedule := [⟨true, .txAnswer .err⟩] }

theorem fresh_ready : fresh.Ready := ⟨rfl, rfl⟩

theorem receiver_ready (capacity : Word) : (receiver capacity).Ready := ⟨rfl, rfl⟩

/-- The invariant of a block after reset. -/
theorem fresh_inv : fresh.Inv where
  mem_wf := rfl
  mem_below := rfl
  txBuf_wf := rfl
  txBuf_below := rfl
  rxBuf_wf := rfl
  rxBuf_below := rfl
  txLen_le := by decide
  rxLen_le := by decide
  staged := by intro h; cases h
  fragId_shown := rfl
  message_inRange := rfl
  message_fits := by decide
  cursor_le := by decide
  progress := by intro h; cases h
  output_inRange := rfl
  total_le := by decide
  waitTx_staged := by intro h; cases h
  waitTx_offered := by intro h; cases h
  one_inFlight := by intro r h; cases h
  none_inFlight := by intro _ r h; cases h
  rxStep_armed := by intro h; cases h
  idle_unraced := fun _ => rfl

/-- The invariant of a block with a message in progress. -/
theorem sending_inv : sending.Inv where
  mem_wf := by decide +kernel
  mem_below := by decide +kernel
  txBuf_wf := rfl
  txBuf_below := rfl
  rxBuf_wf := rfl
  rxBuf_below := rfl
  txLen_le := by decide
  rxLen_le := by decide
  staged := by intro h; cases h
  fragId_shown := rfl
  message_inRange := by decide
  message_fits := by decide
  cursor_le := by decide
  progress := fun _ => ⟨1, by decide⟩
  output_inRange := rfl
  total_le := by decide
  waitTx_staged := by intro h; cases h
  waitTx_offered := by intro h; cases h
  one_inFlight := by intro r h; cases h
  none_inFlight := by intro _ r h; cases h
  rxStep_armed := by intro h; cases h
  idle_unraced := fun _ => rfl

theorem witness_StepRunsTheDecodedTransaction_idle : ∃ (s : State) (m : Move) (rest : List Move)
    (bytes : List Byte) (i : Instr), s.env.schedule = m :: rest ∧ m.event = .bus bytes ∧
    s.engineReady = false ∧ decode bytes = .ok i :=
  ⟨{ fresh with env.schedule := [⟨false, .bus [0x13, 0, 0, 0]⟩] }, _, _, _, .send, rfl, rfl, rfl, rfl⟩

theorem witness_StepRunsTheDecodedTransaction_overlapping : ∃ (s : State) (m : Move)
    (rest : List Move) (bytes : List Byte) (w : Word), s.env.schedule = m :: rest ∧
    m.event = .bus bytes ∧ s.engineReady = true ∧ m.overlap = true ∧
    decode bytes = .error (.illegalCommand w) :=
  ⟨{ fresh with
    engine := .run (some .encode)
    env.schedule := [⟨true, .bus [0x03, 0, 0, 0]⟩] }, _, _, _, 3, rfl, rfl, rfl, rfl, rfl⟩

theorem witness_EveryStepKeepsTheInvariant : ∃ s t : State, s.Inv ∧ s.status.fragActive = true ∧
    step s = .next t := ⟨sending, _, sending_inv, rfl, rfl⟩

theorem witness_ResetEventResetsTheBlockOnly : ∃ s : State, s.Inv ∧
    s.engine.op ≠ some .rxProcess ∧ s.engine.op ≠ some .rxStep ∧ s.env.raced = [] :=
  ⟨sending, sending_inv, by decide, by decide, rfl⟩

/-- The invariant of a block that waits with a frame offered and no answer. -/
theorem transmitting_inv : transmitting.Inv where
  mem_wf := rfl
  mem_below := rfl
  txBuf_wf := by decide +kernel
  txBuf_below := by decide +kernel
  rxBuf_wf := rfl
  rxBuf_below := rfl
  txLen_le := by decide
  rxLen_le := by decide
  staged := fun _ => by decide +kernel
  fragId_shown := rfl
  message_inRange := rfl
  message_fits := by decide
  cursor_le := by decide
  progress := by intro h; cases h
  output_inRange := rfl
  total_le := by decide
  waitTx_staged := fun _ => rfl
  waitTx_offered := fun _ => rfl
  one_inFlight := by intro r h; cases h
  none_inFlight := fun h => absurd rfl h
  rxStep_armed := by intro h; cases h
  idle_unraced := fun _ => rfl

/-- A frame without an answer, and a delivery that RECV may lose. -/
theorem witness_ResetEventResetsTheBlockOnly_waits :
    (transmitting.Inv ∧ transmitting.env.txLog[0]? = some ⟨frameCO1, .pending⟩) ∧
    ∃ s : State, s.Inv ∧ s.engine.op = some .recv ∧ s.env.rxQueue = [.err] := by
  refine ⟨⟨transmitting_inv, rfl⟩, { receiving with env.rxQueue := [.err] }, ?_, rfl, rfl⟩
  obtain ⟨⟩ := fresh_inv
  constructor <;> first | assumption | (intro h; cases h) | (intro _ r h; cases h)

theorem witness_NoStepChangesTheConfiguration : ∃ s t : State, step s = .next t :=
  ⟨crowded, _, rfl⟩

theorem witness_DecodeOfEncodeIsTheInstruction : ∃ i : Instr, i.wf = true :=
  ⟨.regWrite 0xFFF 0xFFFFFFFF, rfl⟩

theorem witness_DecodedBytesAreTheEncoding :
    decode [0x03, 0x00, 0x00, 0x00, 0x03, 0x10] = .ok (.regWrite 3 3) ∧
    decode [0xFF, 0xFF, 0xFF, 0xFF, 0x01, 0x00] = .ok (.regRead 1) ∧
    decode [0x23, 0x00, 0x00, 0x00] = .ok .rxStep := ⟨rfl, rfl, rfl⟩

theorem witness_UnpackedHeaderOfAPackedHeaderIsTheHeader : 51 ≤ (frameCO1.take 51).length := by
  decide

/-- V-CO-3: a frame with 7 bytes after it decodes, and one of 53 bytes is too short. -/
theorem witness_EncodeAndDecodeOfFramesAreInverse :
    ([0x41, 0x42, 0x43] : List Byte).length = headerCO1.payloadLength.toNat ∧
    decodeFrame .le (frameCO1 ++ List.replicate 7 0) = some (headerCO1, [0x41, 0x42, 0x43]) ∧
    decodeFrame .le (frameCO1.take 53) = none ∧ decodeFrame .le (frameCO1.take 50) = none := by
  decide +kernel

theorem witness_IllegalCommandWordsRaiseIllegalCommand : fresh.Ready ∧
    crowded.engine = .idle ∧ crowded.overlapped = true ∧
    (∀ c : Cmd, (0x00000000 : Word) ≠ c.word) ∧ (∀ c : Cmd, (0x00000110 : Word) ≠ c.word) ∧
    (∀ c : Cmd, (0x80000001 : Word) ≠ c.word) :=
  ⟨fresh_ready, rfl, rfl, commandOf_eq_none_iff.1 rfl, commandOf_eq_none_iff.1 rfl,
    commandOf_eq_none_iff.1 rfl⟩

theorem witness_CommandsWrittenWhileBusyAreLost : receiving.busy = true := rfl

theorem witness_OverlappedCommandsKeepBusy :
    crowded.engine = .idle ∧ crowded.overlapped = true ∧ fresh.Ready := ⟨rfl, rfl, fresh_ready⟩

theorem witness_StatusWritesClearOnlyTheOverrunFlag :
    (2 : Word).getLsbD 1 = true ∧ (0xFFFFFFFD : Word).getLsbD 1 = false := by decide

theorem witness_WritesWhileBusyChangeOnlyTheOverrunFlag : receiving.busy = true ∧
    (2 : BitVec 12) ≠ 0 ∧ (2 : BitVec 12) ≠ 1 ∧
    (2 : Word).getLsbD 1 = true ∧ (1 : Word).getLsbD 1 = false := by decide

theorem witness_ReadsWhileBusyShowBusyAndTheOverrunFlag :
    receiving.busy = true ∧ (1 : BitVec 12) = 1 := by decide

theorem witness_IdleReadsReturnTheRegisterMap : fresh.engine = .idle ∧
    (0x000, 0) ∈ registerRows fresh ∧ (0x0C4, 0) ∈ registerRows fresh := by
  decide +kernel

theorem witness_ReservedOffsetsReadZeroAndIgnoreWrites :
    ∀ index ∈ ([0x00B, 0x011, 0x01E, 0x032, 0x3FF, 0xC00, 0xFFF] : List (BitVec 12)),
      4 * index.toNat ∉ namedOffsets ∧ (index.toNat < 0x400 ∨ 0xC00 ≤ index.toNat) := by decide +kernel

theorem witness_WrittenRegistersReadBackUnderTheirMask : fresh.engine = .idle ∧
    (0x00C, 0x3) ∈ writableMasks ∧ (0x0C4, 0xFFFFFFFF) ∈ writableMasks ∧
    (0x028, 0xFFFF) ∈ writableMasks ∧ 0x008 ∈ readOnlyOffsets ∧ 0x074 ∈ readOnlyOffsets ∧
    (0x004, 0) ∈ registerRows fresh := by decide +kernel

/-- In CFG-SMALL window word 14 is the last that holds bytes, and word 15 holds none. -/
theorem witness_WindowWordsPackBytesLowFirst : staged.engine = .idle ∧
    4 * 14 + 3 < staged.cfg.maxFrame ∧ staged.cfg.maxFrame ≤ 4 * 15 + 0 ∧ 0x3FF < 0x400 ∧
    staged.txBuf.readByte (4 * 13 + 1) = some 0x43 ∧
    (holding frameCO1 fresh).rxBuf.readByte (4 * 13 + 1) = some 0x43 := by decide +kernel

theorem witness_RxlenWritesAreBounded : fresh.engine = .idle ∧
    (60 : Word).toNat ≤ fresh.cfg.maxFrame ∧ fresh.cfg.maxFrame < (61 : Word).toNat := by decide

theorem witness_BusOffsetLowBitsAreIgnored : 0xFFF < 2 ^ 12 ∧ 3 < 4 ∧
    Config.blockBase + 0x4000 ≤ Config.blockBase + 0x4000 := ⟨by decide, by decide, Nat.le_refl _⟩

theorem witness_SetaddrAndWrrxHandOverTheirBytes : fresh.engine = .idle ∧
    (List.replicate 60 (0xAA : Byte)).length ≤ fresh.cfg.maxFrame := by decide

theorem witness_EncodePacksHeaderAndPayloadIntoTxbuf : ∃ s : State, s.Ready ∧
    s.hdr.payloadLength.toNat = s.cfg.maxFrame - 51 ∧
    s.regs.msgBase.toNat + s.hdr.payloadLength.toNat = 2 ^ 32 :=
  ⟨{ fresh with hdr.payloadLength := 9, regs.msgBase := 0xFFFFFFF7 }, ⟨rfl, rfl⟩, by decide, by decide⟩

theorem witness_EncodePacksHeaderAndPayloadIntoTxbuf_errors :
    (∃ s : State, s.Ready ∧ s.cfg.maxFrame - 51 < s.hdr.payloadLength.toNat) ∧
    (∃ s : State, s.Ready ∧ s.hdr.payloadLength.toNat ≤ s.cfg.maxFrame - 51 ∧
      2 ^ 32 < s.regs.msgBase.toNat + s.hdr.payloadLength.toNat) :=
  ⟨⟨{ fresh with hdr.payloadLength := 10 }, ⟨rfl, rfl⟩, by decide⟩,
    ⟨{ fresh with hdr.payloadLength := 2, regs.msgBase := 0xFFFFFFFF }, ⟨rfl, rfl⟩, by decide,
      by decide⟩⟩

theorem witness_DecodeUnpacksTheCandidateOrReportsMalformed : (holding frameCO1 fresh).Ready :=
  ⟨rfl, rfl⟩

theorem witness_FragStartLatchesTheMessage : sender.Ready ∧ sender.regs.localValid = true ∧
    sender.regs.msgBase.toNat + sender.regs.msgLen.toNat ≤ 2 ^ 32 ∧
    tooLong sender.cfg sender.regs.msgLen.toNat sender.regs.align = false ∧
    sender.env.entropy = 0x5A5A :: [] := ⟨⟨rfl, rfl⟩, by decide⟩

/-- The same states meet the hypotheses of the three errors of FragStartLatchesTheMessage. -/
theorem witness_SendStartErrorsChangeOnlyTheResult :
    (∃ s : State, s.Ready ∧ s.regs.localValid = false) ∧
    (∃ s : State, s.Ready ∧ s.regs.localValid = true ∧
      2 ^ 32 + 1 = s.regs.msgBase.toNat + s.regs.msgLen.toNat) ∧
    (∃ s : State, s.Ready ∧ s.regs.localValid = true ∧
      s.regs.msgBase.toNat + s.regs.msgLen.toNat ≤ 2 ^ 32 ∧
      tooLong s.cfg s.regs.msgLen.toNat s.regs.align = true) :=
  ⟨⟨fresh, fresh_ready, rfl⟩,
    ⟨{ sender with regs.msgBase := 0xFFFFFFFF, regs.msgLen := 2 }, ⟨rfl, rfl⟩, rfl, by decide⟩,
    ⟨{ sender with regs.msgBase := 0, regs.msgLen := 131073 }, ⟨rfl, rfl⟩, rfl, by decide, by decide⟩⟩

theorem witness_FragNextProducesTheNextFrame : sending.Ready ∧ sending.status.fragActive = true ∧
    sending.fctx.base.toNat + sending.fctx.len.toNat ≤ 2 ^ 32 ∧
    sending.frag.cursor.toNat ≤ sending.fctx.len.toNat ∧
    8 = (if sending.fctx.align then
      (sending.cfg.maxFrame - 51) / sending.cfg.blockSize * sending.cfg.blockSize
      else sending.cfg.maxFrame - 51) ∧
    8 = min 8 (sending.fctx.len.toNat - sending.frag.cursor.toNat) ∧
    true = decide (sending.frag.cursor.toNat + 8 < sending.fctx.len.toNat) :=
  ⟨⟨rfl, rfl⟩, by decide⟩

/-- No message in progress and no staged frame: the first clauses about FRAG_NEXT and XMIT. -/
theorem witness_FragNextProducesTheNextFrame_inactive : fresh.Ready ∧ fresh.status.fragActive = false ∧
    fresh.status.txValid = false := ⟨fresh_ready, by decide⟩

theorem witness_XmitOffersTheStagedFrame : staged.Ready ∧ staged.status.txValid = true ∧
    TxAnswer.accepted 54 = .accepted staged.txLen.toNat ∧
    TxAnswer.accepted 20 ≠ .accepted staged.txLen.toNat ∧ staged.env.txAnswers = [] :=
  ⟨⟨rfl, rfl⟩, by decide⟩

/-- The context of P5's message. -/
def contextP5 : Fctx := ⟨addrA, addrB, 0x1234, 0x00, 0x1000, 20, true, 0x5A5A⟩

/-- P5's sender with the transport's answers. -/
def senderWith (answers : List TxAnswer) : State := { sender with env.txAnswers := answers }

theorem witness_SendOffersExactlyTheFramesOfTheMessage : ∃ (s : State) (f : Fctx) (n : Nat)
    (rest : List TxAnswer), s.Ready ∧ s.regs.localValid = true ∧
    s.regs.msgBase.toNat + s.regs.msgLen.toNat ≤ 2 ^ 32 ∧
    tooLong s.cfg s.regs.msgLen.toNat s.regs.align = false ∧
    f = ⟨s.regs.localAddr, s.regs.remoteAddr, s.regs.protocolId, s.regs.frameType,
      s.regs.msgBase, s.regs.msgLen, s.regs.align, (draw16 s).1⟩ ∧
    n = messageFrames s.cfg f ∧
    s.env.txAnswers = (List.range n).map (fullAnswer s.cfg f) ++ rest :=
  ⟨senderWith [.accepted 59, .accepted 59, .accepted 55], contextP5, 3, [], ⟨rfl, rfl⟩, by decide⟩

theorem witness_SendStopsAtTheFirstFailedFrame : ∃ (s : State) (f : Fctx) (k : Nat)
    (bad : TxAnswer) (rest : List TxAnswer), s.Ready ∧ s.regs.localValid = true ∧
    s.regs.msgBase.toNat + s.regs.msgLen.toNat ≤ 2 ^ 32 ∧
    tooLong s.cfg s.regs.msgLen.toNat s.regs.align = false ∧
    f = ⟨s.regs.localAddr, s.regs.remoteAddr, s.regs.protocolId, s.regs.frameType,
      s.regs.msgBase, s.regs.msgLen, s.regs.align, (draw16 s).1⟩ ∧
    k < messageFrames s.cfg f ∧ bad ≠ fullAnswer s.cfg f k ∧
    s.env.txAnswers = (List.range k).map (fullAnswer s.cfg f) ++ bad :: rest :=
  ⟨senderWith [.accepted 59, .accepted 20], contextP5, 1, .accepted 20, [], ⟨rfl, rfl⟩, by decide⟩

theorem witness_SendWaitsForTheAnswerToEachFrame : ∃ (s : State) (f : Fctx) (k : Nat), s.Ready ∧
    s.regs.localValid = true ∧ s.regs.msgBase.toNat + s.regs.msgLen.toNat ≤ 2 ^ 32 ∧
    tooLong s.cfg s.regs.msgLen.toNat s.regs.align = false ∧
    f = ⟨s.regs.localAddr, s.regs.remoteAddr, s.regs.protocolId, s.regs.frameType,
      s.regs.msgBase, s.regs.msgLen, s.regs.align, (draw16 s).1⟩ ∧
    k < messageFrames s.cfg f ∧ s.env.txAnswers = (List.range k).map (fullAnswer s.cfg f) :=
  ⟨senderWith [.accepted 59, .accepted 59], contextP5, 2, ⟨rfl, rfl⟩, by decide⟩

theorem witness_ActiveOffsetsFitFifteenBits : sending.Inv ∧ sending.status.fragActive = true :=
  ⟨sending_inv, rfl⟩

theorem witness_RxInitCreatesAFreshInstance :
    (∃ s : State, s.Ready ∧ s.regs.localValid = false) ∧
    (∃ s : State, s.Ready ∧ s.regs.localValid = true ∧
      s.regs.outBase.toNat + s.regs.outCap.toNat = 2 ^ 32) ∧
    (∃ s : State, s.Ready ∧ s.regs.localValid = true ∧
      2 ^ 32 + 1 = s.regs.outBase.toNat + s.regs.outCap.toNat) :=
  ⟨⟨fresh, fresh_ready, rfl⟩,
    ⟨{ receiver 0x10 with regs.outBase := 0xFFFFFFF0 }, ⟨rfl, rfl⟩, rfl, by decide⟩,
    ⟨{ receiver 0x11 with regs.outBase := 0xFFFFFFF0 }, ⟨rfl, rfl⟩, rfl, by decide⟩⟩

/-- A delivery of MAX_FRAME_SIZE bytes in CFG-SMALL. -/
def longest : List Byte := List.replicate 60 0

theorem witness_RecvTakesOneDelivery :
    (∃ (s : State) (r : List Byte) (rest : List RxAnswer), s.Ready ∧
      s.env.rxQueue = .delivered r :: rest ∧ r.length = s.cfg.maxFrame) ∧
    (∃ (s : State) (rest : List RxAnswer), s.Ready ∧ s.env.rxQueue = .err :: rest) ∧
    (∃ s : State, s.Ready ∧ s.env.rxQueue = []) :=
  ⟨⟨{ fresh with env.rxQueue := [.delivered longest] }, longest, [], ⟨rfl, rfl⟩, rfl, rfl⟩,
    ⟨{ fresh with env.rxQueue := [.err] }, [], ⟨rfl, rfl⟩, rfl⟩, ⟨fresh, fresh_ready, rfl⟩⟩

/-- The last fragment of P3 as the candidate. -/
theorem witness_RxProcessRunsOneArrival : (holding frameF7 (receiver 16)).Ready ∧
    (receiver 16).regs.localValid = true ∧ (receiver 16).status.rxState = .awaitingFrame ∧
    (receiver 16).rx.outBase.toNat + (receiver 16).rx.outCap.toNat ≤ 2 ^ 32 :=
  ⟨⟨rfl, rfl⟩, by decide⟩

theorem witness_RxStepRunsTheArrivalOfOneDelivery : (receiver 16).Ready ∧
    (receiver 16).regs.localValid = true ∧ (receiver 16).status.rxState = .awaitingFrame ∧
    (receiver 16).rx.outBase.toNat + (receiver 16).rx.outCap.toNat ≤ 2 ^ 32 ∧
    longest.length ≤ (receiver 16).cfg.maxFrame ∧ (receiver 16).env.rxQueue = [] ∧
    { receiver 16 with env.rxQueue := [.delivered longest] }.Ready ∧
    { receiver 16 with env.rxQueue := [.err] }.Ready :=
  ⟨⟨rfl, rfl⟩, rfl, rfl, by decide, by decide, rfl, ⟨rfl, rfl⟩, ⟨rfl, rfl⟩⟩

/-- The same for the NOT_AWAITING clause of RxStepRunsTheArrivalOfOneDelivery. -/
theorem witness_RxProcessRunsOneArrival_terminal : ∃ s : State, s.Ready ∧ s.regs.localValid = true ∧
    s.status.rxState ≠ .awaitingFrame :=
  ⟨{ receiver 16 with status.rxState := .complete }, ⟨rfl, rfl⟩, rfl, by decide⟩

theorem witness_CommandsThatUseTheLocalAddressNeedIt : fresh.Ready ∧ fresh.regs.localValid = false :=
  ⟨fresh_ready, rfl⟩

/-- F2 of P3 has the receiver's own source; its protocol and destination are the receiver's. -/
theorem witness_DroppedFramesLeaveTheReassemblerAlone : ∃ (s : State) (cand : List Byte)
    (h : Header) (p : List Byte), s.Ready ∧ s.regs.localValid = true ∧
    s.status.rxState = .awaitingFrame ∧ cand.length = s.rxLen.toNat ∧
    cand.length ≤ s.cfg.maxFrame ∧
    (∀ i : Fin cand.length, s.rxBuf.readByte i = some cand[i]) ∧
    decodeFrame s.cfg.wireOrder cand = some (h, p) ∧
    h.protocolId = s.regs.protocolId ∧ h.dest = s.regs.localAddr ∧ h.src = s.regs.localAddr :=
  ⟨holding frameF2 (receiver 16), frameF2, ⟨addrB, addrB, 0, 0x1234, 2, 0xBEEF, 0x8000, 0⟩,
    [0x01, 0x02], ⟨rfl, rfl⟩, by decide +kernel⟩

theorem witness_DroppedFramesLeaveTheReassemblerAlone_others :
    (⟨addrB, addrA, 0, 0x4321, 2, 0xBEEF, 0x8000, 0⟩ : Header).protocolId
      ≠ (receiver 16).regs.protocolId ∧
    (⟨addrC, addrA, 0, 0x1234, 2, 0xBEEF, 0x8000, 0⟩ : Header).dest
      ≠ (receiver 16).regs.localAddr := by decide

/-- P5: the frames T0, T1, T2 at node B. -/
theorem witness_FramesInOrderCompleteAndRoundTripWhereBlocksDivideTheStep : ∃ (f : Fctx) (m : Memory) (r : State) (n : Nat)
    (rest : List RxAnswer), r.Ready ∧ r.regs.localValid = true ∧
    r.status.rxState = .awaitingFrame ∧ f.remoteAddr = r.regs.localAddr ∧
    f.localAddr ≠ r.regs.localAddr ∧ f.proto = r.regs.protocolId ∧
    tooLong r.cfg f.len.toNat f.align = false ∧
    r.rx.outBase.toNat + r.rx.outCap.toNat ≤ 2 ^ 32 ∧ f.len.toNat ≤ r.rx.outCap.toNat ∧
    n = messageFrames r.cfg f ∧ r.cfg.blockSize ∣ chunkStep r.cfg f.align ∧
    r.env.rxQueue =
      (List.range n).map (fun i => RxAnswer.delivered (messageFrame r.cfg f m i)) ++ rest :=
  ⟨contextP5, sender.mem, { receiver 20 with
      env.rxQueue := (List.range 3).map
        (fun i => RxAnswer.delivered (messageFrame Config.small contextP5 sender.mem i)) }, 3, [],
    ⟨rfl, rfl⟩, rfl, rfl, rfl, by decide, rfl, by decide, by decide, by decide, by decide,
    ⟨2, by decide⟩, by rw [List.append_nil]; rfl⟩

theorem witness_OnlyTheListedCommandsMoveTheReassembler :
    (∃ t : State, exec .rxInit { fresh with regs.localValid := true } = .next t ∧
      t.status.rxState = .awaitingFrame) ∧
    (∃ t : State, engineMove { fresh with engine := .run (some .decode) } = .next t) :=
  ⟨⟨_, rfl, rfl⟩, ⟨_, rfl⟩⟩

theorem witness_engine_move_from_a_good_state :
    { fresh with engine := .run (some .fragNext) }.Inv ∧
    ∃ t : State, engineMove { fresh with engine := .run (some .fragNext) } = .next t ∧
      t.result = .fragNotActive := by
  refine ⟨?_, ⟨_, rfl, rfl⟩⟩
  obtain ⟨⟩ := fresh_inv
  constructor <;> first | assumption | (intro h; cases h) | (intro _ r h; cases h)

/-- A step of RX_STEP that writes host memory inside the output region. -/
theorem witness_HostMemoryIsWrittenOnlyInTheOutputRegion :
    seen (exec .rxStep { receiver 16 with env.rxQueue := [.delivered frameF7] })
      (fun t => t.mem.readByte 0x3004) = some (some 0x05) ∧
    seen (engineMove { receiver 16 with
        engine := .waitRx .rxStep, env.rxQueue := [.delivered frameF7] })
      (fun t => t.mem.readByte 0x3004) = some (some 0x05) ∧
    (receiver 16).rx.outBase.toNat + (receiver 16).rx.outCap.toNat ≤ 0x3010 := by decide +kernel

theorem witness_StatusFlagsChangeOnlyAsListed :
    seen (exec .recv fresh) (fun t => decide (t.busy ≠ fresh.busy)) = some true ∧
    seen (exec .encode receiving)
      (fun t => decide (t.status.cmdOvr ≠ receiving.status.cmdOvr)) = some true ∧
    seen (exec .fragStart sender)
      (fun t => decide (t.status.fragActive ≠ sender.status.fragActive)) = some true ∧
    seen (exec .encode encodeCO1)
      (fun t => decide (t.status.txValid ≠ encodeCO1.status.txValid)) = some true ∧
    seen (exec .rxProcess (holding frameF2 (receiver 16)))
      (fun t => decide (t.status.lastDrop ≠ (receiver 16).status.lastDrop)) = some true := by
  decide +kernel

/-- Each flag that an engine move can change, changed by one, and a move of the host that is no transaction. -/
theorem witness_StatusFlagsChangeOnlyAsListed_moves :
    seen (engineMove { transmitting with env.txAnswers := [.accepted 54] })
      (fun t => (decide (t.busy ≠ transmitting.busy),
        decide (t.status.txValid ≠ transmitting.status.txValid))) = some (true, true) ∧
    seen (engineMove { sender with engine := .run (some .fragStart) })
      (fun t => decide (t.status.fragActive ≠ sender.status.fragActive)) = some true ∧
    seen (engineMove { receiver 16 with
        engine := .waitRx .rxStep, env.rxQueue := [.delivered frameF2] })
      (fun t => decide (t.status.lastDrop ≠ (receiver 16).status.lastDrop)) = some true ∧
    seen (occur (.hostStore 0x1000 [0]) receiving) (fun t => t.status) = some receiving.status := by
  decide +kernel

theorem witness_OnlyTheEndOfACommandWritesResult :
    seen (exec .xmit fresh) (fun t => decide (t.result ≠ fresh.result)) = some true ∧
    seen (engineMove { receiving with env.rxQueue := [.err] })
      (fun t => decide (t.result ≠ receiving.result)) = some true := by decide +kernel

theorem witness_OnlyDecodeAndTheHostWriteTheHeaderRegisters :
    seen (exec .decode (holding frameCO1 fresh)) (fun t => decide (t.hdr ≠ fresh.hdr)) = some true ∧
    seen (exec (.regWrite 0x031 1) fresh) (fun t => decide (t.hdr ≠ fresh.hdr)) = some true ∧
    seen (engineMove { holding frameCO1 fresh with engine := .run (some .decode) })
      (fun t => decide (t.hdr ≠ fresh.hdr)) = some true := by decide +kernel

theorem witness_TheTransportSeesFramesInOrder :
    seen (exec .xmit staged) (fun t => t.env.txLog.length) = some 1 ∧
    seen (engineMove { transmitting with env.txAnswers := [.accepted 54] })
      (fun t => t.env.txLog.length) = some 1 := by decide +kernel

theorem witness_WaitsLastUntilTheTransportAnswers :
    (transmitting.engine.phase = .waitTx ∧ transmitting.env.txAnswers = [] ∧
      transmitting.env.schedule = []) ∧
    (receiving.engine.phase = .waitRx ∧ receiving.env.rxQueue = []) ∧
    (∃ (m : Move) (rest : List Move) (t : State), m.event ≠ .reset ∧
      step { receiving with env.schedule := m :: rest } = .next t) :=
  ⟨⟨rfl, rfl, rfl⟩, ⟨rfl, rfl⟩, ⟨⟨false, .bus [0x01, 0, 0, 0]⟩, [], _, by decide, rfl⟩⟩

theorem witness_AnAnswerEndsTheWaitAsIfItHadBeenReady :
    (∃ w : State, staged.Ready ∧ staged.env.txAnswers = [] ∧
      exec (Instr.ofCmd .xmit) staged = .next w ∧ w.engine.phase = .waitTx) ∧
    (∃ w : State, (receiver 16).Ready ∧ (receiver 16).env.rxQueue = [] ∧
      exec (Instr.ofCmd .rxStep) (receiver 16) = .next w ∧ w.engine.phase = .waitRx) :=
  ⟨⟨_, ⟨rfl, rfl⟩, rfl, rfl, rfl⟩, ⟨_, ⟨rfl, rfl⟩, rfl, rfl, rfl⟩⟩

theorem witness_MemoryReadsWhatWasLastStored :
    (Memory.writeBytes [] 0xFFFFFFFE [0x41, 0x42]).wf = true ∧ 1 < ([0x41, 0x42] : List Byte).length :=
  by decide

theorem witness_EqualReadsMakeEqualMemories :
    (Memory.writeBytes [] 4 [0x41, 0x42]).wf = true ∧
    (Memory.writeByte (Memory.writeByte [] 5 0x42) 4 0x41).wf = true ∧
    Memory.writeBytes [] 4 [0x41, 0x42] = Memory.writeByte (Memory.writeByte [] 5 0x42) 4 0x41 := by
  decide

theorem witness_RacingBytesHoldEitherValue :
    (∃ (s t : State), s.env.raced = [0x3001] ∧ s.memWrite 0x3000 [0x41, 0x42] = .ok t) ∧
    (∃ (s t : State), s.env.raced = [] ∧ s.memWrite 0xFFFFFFFE [0x41, 0x42] = .ok t) :=
  ⟨⟨{ receiving with env.raced := [0x3001] }, _, rfl, rfl⟩, ⟨fresh, _, rfl, rfl⟩⟩

/-- P5's SEND, waiting for the answer to its second frame. -/
def sendWaiting : State :=
  { sending with
    engine := .waitTx .send
    frag := ⟨0x5A5A, 16, 4⟩
    txBuf := Memory.writeBytes [] 0 frameT1
    txLen := 59
    status.txValid := true
    env.txLog := [⟨frameT1, .pending⟩, ⟨frameT1, .answered (.accepted 59)⟩, ⟨frameCO1, .answered .err⟩] }

/-- A store into the message region: the headers of SEND's two frames, every length and the older frame stay,
and TXBUF keeps its header (20_memory.md R80). -/
theorem test_store_during_send : seen (hostStore 0x1013 [0xAA] sendWaiting)
    (fun t => (t.env.txLog.map (·.frame.length), t.env.txLog.map (·.fate),
      (t.env.txLog.map (·.frame)).drop 2, t.env.txLog.map (·.frame.take 51))) =
    some ([59, 59, 54], [.pending, .answered (.accepted 59), .answered .err], [frameCO1],
      [frameT1.take 51, frameT1.take 51, frameCO1.take 51]) := by decide +kernel

/-- The payloads of both frames, and TXBUF's, are the free bytes of one draw each. -/
theorem test_store_during_send_frees : seen (hostStore 0x1013 [0xAA] sendWaiting)
    (fun t => ((t.env.txLog.map (·.frame.drop 51)).take 2, t.txBuf.readByte 58)) =
    some ([freeBytes 0 8, freeBytes 60 8], some (freeByte 7)) := rfl

/-- The same SEND waiting for the answer to its shorter last frame; TXBUF holds T1's tail above TXLEN. -/
def lastWaiting : State :=
  { sendWaiting with
    frag := ⟨0x5A5A, 20, 5⟩
    status.fragActive := false
    txBuf := Memory.writeBytes (Memory.writeBytes [] 0 frameT1) 0 frameT2
    txLen := 55
    env.txLog := [⟨frameT2, .pending⟩, ⟨frameT1, .answered (.accepted 59)⟩,
      ⟨frameT1, .answered (.accepted 59)⟩, ⟨frameCO1, .answered .err⟩] }

/-- That tail was read by this SEND, so it becomes the free bytes of its record (20_memory.md R80). -/
theorem test_store_during_send_frees_the_tail :
    [54, 55, 58, 59].map lastWaiting.freedTxBuf.readByte =
      [some (freeByte 3), some (freeByte 64), some (freeByte 67), none] := by
  simp only [List.map_cons, List.map_nil, readByte_freedTxBuf]
  rfl

theorem witness_RacedMessageBytesAreAnyValue :
    (0xFFFFFFFE + 2 ≤ 2 ^ 32 ∧ 0x1000 ≤ 0x1013 ∧ 0x1013 < 0x1000 + 20 ∧ 0x1000 + 20 ≤ 0x1014) ∧
    (∃ s : State, s.engine = .run (some .encode) ∧
      s.hdr.payloadLength.toNat ≤ s.cfg.maxFrame - 51 ∧
      s.regs.msgBase.toNat + s.hdr.payloadLength.toNat ≤ 2 ^ 32 ∧
      (∃ x ∈ s.env.raced, s.regs.msgBase.toNat ≤ x ∧
        x < s.regs.msgBase.toNat + s.hdr.payloadLength.toNat)) ∧
    (∃ s : State, s.engine = .run (some .fragNext) ∧ s.status.fragActive = true ∧
      s.fctx.base.toNat + s.fctx.len.toNat ≤ 2 ^ 32 ∧ s.frag.cursor.toNat ≤ s.fctx.len.toNat ∧
      (∃ x ∈ s.env.raced, s.fctx.base.toNat ≤ x ∧ x < s.fctx.base.toNat + s.fctx.len.toNat)) ∧
    (∃ s : State, (s.engine = .waitTx .send ∧ s.env.txAnswers = [.accepted s.txLen.toNat]) ∧
      s.status.fragActive = true ∧ s.fctx.base.toNat + s.fctx.len.toNat ≤ 2 ^ 32 ∧
      s.frag.cursor.toNat ≤ s.fctx.len.toNat ∧
      (∃ x ∈ s.env.raced, s.fctx.base.toNat ≤ x ∧ x < s.fctx.base.toNat + s.fctx.len.toNat)) :=
  ⟨by decide,
    ⟨{ encodeCO1 with engine := .run (some .encode), env.raced := [0x1002] }, rfl, by decide,
      by decide, 0x1002, by decide, by decide⟩,
    ⟨{ sending with engine := .run (some .fragNext), env.raced := [0x1000] }, rfl, rfl, by decide,
      by decide, 0x1000, by decide, by decide⟩,
    ⟨{ sendWaiting with env.txAnswers := [.accepted 59], env.raced := [0x1013] }, ⟨rfl, rfl⟩, rfl,
      by decide, by decide, 0x1013, by decide, by decide⟩⟩

/-- A store that meets the last byte of SEND's region, one that ends just below it, and one into the memory of
an idle block. -/
theorem witness_AStoreDuringSendFreesTheBytesAlreadyRead :
    (sendWaiting.engine = .waitTx .send ∧ sendWaiting.busy = true ∧
      (0x1013 : Word).toNat + ([0xAA] : List Byte).length ≤ 2 ^ 32 ∧
      0x1013 < sendWaiting.fctx.base.toNat + sendWaiting.fctx.len.toNat ∧
      sendWaiting.env.txLog[1]? = some ⟨frameT1, .answered (.accepted 59)⟩ ∧
      1 < frameCount sendWaiting.cfg sendWaiting.frag.cursor.toNat sendWaiting.fctx.align ∧
      ¬ 2 < frameCount sendWaiting.cfg sendWaiting.frag.cursor.toNat sendWaiting.fctx.align) ∧
    (lastWaiting.engine = .waitTx .send ∧ ¬ 55 < lastWaiting.txLen.toNat ∧
      58 < 51 + chunkStep lastWaiting.cfg lastWaiting.fctx.align ∧
      1 < frameCount lastWaiting.cfg lastWaiting.frag.cursor.toNat lastWaiting.fctx.align) ∧
    (0x0FFF : Word).toNat + ([0xAA] : List Byte).length ≤ sendWaiting.fctx.base.toNat ∧
    fresh.busy = false := by decide +kernel

/-- A write under way whose bytes a load meets, and a command that writes none. -/
theorem witness_RacingLoadsReturnTheOldOrTheNewByte :
    (∃ (s u : State) (t : State), s.env.raced = [] ∧
      writeUnderWay s = some (0x3004, [0x05, 0x06, 0x07]) ∧
      hostLoad 0x3003 5 s = .next t ∧ engineMove t = .next u) ∧
    (receiving.engine.op ≠ some .rxProcess ∧ receiving.engine.op ≠ some .rxStep) ∧
    (0x3003 : Word).toNat + 5 ≤ 2 ^ 32 :=
  ⟨⟨{ holding frameF7 (receiver 16) with engine := .run (some .rxProcess) }, _, _, rfl,
    by decide +kernel, rfl, rfl⟩, by decide, by decide⟩

end Sys2Proof.Tests
end

