-- ==== Sys2Proof/Proofs/Scope.lean ====
section
/-! The statements of 00_scope.md. -/

namespace Sys2Proof.Machine

open Sys2Proof

/-- Settles O52: read after write, frame and canonical form are the laws of `Memory.writeBytes`, each an
induction on the bytes stored. -/
theorem memoryReadsWhatWasLastStored : Obligations.MemoryReadsWhatWasLastStored := by
  intro m a bytes
  refine ⟨?readAfterWrite, ?frame, ?canonical⟩
  case readAfterWrite => exact fun _ hi => readByte_writeBytes m a bytes hi
  case frame => exact fun _ hb => readByte_writeBytes_of_not_mem m a bytes hb
  case canonical => exact fun hm => wf_writeBytes hm a bytes

end Sys2Proof.Machine
end

section
/-! The engine's small steps: what a command does between two of its events (10_state.md R47). Every rule
about what a command changes is proved once per small step, and holds of a whole engine move because the move
is a run of such steps. -/

namespace Sys2Proof.Machine

open Sys2Proof

/-- One small step of the engine: from RUN or a wait to the next wait or to the command's end. -/
inductive EngineStep : State → State → Prop
  | raised {s : State} {op : Option Cmd} {code : ResultCode} (eng : s.engine = .run op) :
      EngineStep s (s.raise code)
  | encoded {s : State} {frame : List Byte} {n : Nat} (eng : s.engine = .run (some .encode))
      (fits : frame.length ≤ s.cfg.maxFrame) : EngineStep s (((s.drawn n).stage frame).finish .ok)
  | decoded {s : State} {h : Header} {n : Nat} (eng : s.engine = .run (some .decode)) :
      EngineStep s (({ s with hdr := h }.drawn n).finish .ok)
  | malformed {s : State} {n : Nat} (eng : s.engine = .run (some .decode)) :
      EngineStep s ((s.drawn n).raise .malformedFrame)
  | fragStarted {s u : State} (eng : s.engine = .run (some .fragStart))
      (start : startMessage s = .ok u) : EngineStep s (u.finish .ok)
  | fragmented {s u : State} (eng : s.engine = .run (some .fragNext))
      (active : s.status.fragActive = true) (frame : nextFrame s = .ok u) :
      EngineStep s (u.finish .ok)
  | xmitOffered {s : State} (eng : s.engine = .run (some .xmit))
      (valid : s.status.txValid = true) : EngineStep s (s.offer .xmit)
  | sendOffered {s u v : State} (eng : s.engine = .run (some .send))
      (start : startMessage s = .ok u) (frame : nextFrame u = .ok v) : EngineStep s (v.offer .send)
  | sendNext {s u : State} {a : TxAnswer} {rest : List TxAnswer} (eng : s.engine = .waitTx .send)
      (active : s.status.fragActive = true) (frame : nextFrame (s.answered a rest) = .ok u) :
      EngineStep s (u.offer .send)
  | txEnded {s : State} {op : TxCmd} {a : TxAnswer} {rest : List TxAnswer} {code : ResultCode}
      (eng : s.engine = .waitTx op) : EngineStep s ((s.answered a rest).finish code)
  | sendFailed {s : State} {a : TxAnswer} {rest : List TxAnswer} (eng : s.engine = .waitTx .send) :
      EngineStep s ({ s.answered a rest with status.fragActive := false }.raise .transportError)
  | rxInited {s : State} (eng : s.engine = .run (some .rxInit))
      (range : inRange s.regs.outBase.toNat s.regs.outCap.toNat = true) :
      EngineStep s ({ s with
        rx := ⟨0, s.regs.outBase, s.regs.outCap⟩
        status.lastDrop := .none
        status.rxState := .awaitingFrame }.finish .ok)
  | recvWaits {s : State} (eng : s.engine = .run (some .recv)) :
      EngineStep s { s with engine := .waitRx .recv }
  | rxStepWaits {s : State} (eng : s.engine = .run (some .rxStep)) (armed : rxRefusal s = none) :
      EngineStep s { s with engine := .waitRx .rxStep }
  | rxFailed {s : State} {op : RxCmd} {rest : List RxAnswer} (eng : s.engine = .waitRx op) :
      EngineStep s ({ s with env.rxQueue := rest }.raise .transportError)
  | received {s : State} {r : List Byte} {rest : List RxAnswer} (eng : s.engine = .waitRx .recv) :
      EngineStep s (({ s with env.rxQueue := rest }.storeCandidate r).finish .ok)
  | rxProcessed {s t : State} (eng : s.engine = .run (some .rxProcess)) (armed : rxRefusal s = none)
      (arrive : arrivalOfCandidate s = .ok t) : EngineStep s t
  | rxStepped {s t : State} {r : List Byte} {rest : List RxAnswer}
      (eng : s.engine = .waitRx .rxStep)
      (arrive : arrivalOfCandidate ({ s with env.rxQueue := rest }.storeCandidate r) = .ok t) :
      EngineStep s t

/-- The engine gets from one state to another in small steps. -/
abbrev EngineRun : State → State → Prop := Relation.ReflTransGen EngineStep

/-! ### Each command's body is a run of small steps -/

theorem engineRun_of_runEncode {s t : State} (eng : s.engine = .run (some .encode))
    (h : runEncode s = .ok t) : EngineRun s t := by
  unfold runEncode at h
  split at h
  · cases h
    exact .single (.raised eng)
  · rename_i hbudget
    split at h
    · cases h
      exact .single (.raised eng)
    · split at h
      · cases h
      · rename_i p u hm
        cases h
        obtain ⟨-, hp, hu⟩ := memRead_cases hm
        have hfits : (encodeFrame s.cfg.wireOrder s.hdr p).length ≤ s.cfg.maxFrame := by
          have := payloadBudget_add s.cfg
          simp only [encodeFrame, List.length_append, length_packHeader, hp]
          omega
        obtain ⟨-, -, rfl⟩ | ⟨-, -, rfl⟩ := hu
        · exact .single (.encoded (n := 0) eng hfits)
        · exact .single (.encoded eng hfits)

theorem engineRun_of_runDecode {s t : State} (eng : s.engine = .run (some .decode))
    (h : runDecode s = .ok t) : EngineRun s t := by
  unfold runDecode at h
  split at h <;> cases h
  · exact .single (.malformed eng)
  · exact .single (.decoded eng)

theorem engineRun_of_runFragStart {s t : State} (eng : s.engine = .run (some .fragStart))
    (h : runFragStart s = .ok t) : EngineRun s t := by
  unfold runFragStart at h
  split at h <;> cases h
  · exact .single (.raised eng)
  · exact .single (.fragStarted eng ‹_›)

theorem engineRun_of_runFragNext {s t : State} (eng : s.engine = .run (some .fragNext))
    (h : runFragNext s = .ok t) : EngineRun s t := by
  unfold runFragNext at h
  split at h
  · cases h
    exact .single (.raised eng)
  · rename_i hactive
    split at h <;> cases h
    exact .single (.fragmented eng (by simpa using hactive) ‹_›)

/-- XMIT in WAIT_TX waits on, or its answer ends it. -/
theorem engineRun_xmitWait {s : State} (eng : s.engine = .waitTx .xmit) :
    EngineRun s (xmitWait s) := by
  unfold xmitWait
  split
  · exact .refl
  · split
    · exact .single (.txEnded eng)
    · exact .single (.txEnded (code := .transportError) eng)

theorem engineRun_of_runXmit {s t : State} (eng : s.engine = .run (some .xmit))
    (h : runXmit s = .ok t) : EngineRun s t := by
  unfold runXmit at h
  split at h <;> cases h
  · exact .single (.raised eng)
  · rename_i hvalid
    exact .head (.xmitOffered eng (by simpa using hvalid)) (engineRun_xmitWait rfl)

/-- SEND in WAIT_TX: one small step per answer. -/
theorem engineRun_of_sendWait {answers : List TxAnswer} {s t : State}
    (eng : s.engine = .waitTx .send) (h : sendWait answers s = .ok t) : EngineRun s t := by
  induction answers generalizing s with
  | nil =>
    cases h
    exact .refl
  | cons a rest ih =>
    unfold sendWait at h
    split at h
    · cases h
      exact .single (.sendFailed eng)
    · split at h
      · cases h
        exact .single (.txEnded eng)
      · rename_i hactive
        split at h
        · cases h
        · rename_i u hframe
          exact .head (.sendNext eng (by simpa using hactive) hframe) (ih rfl h)

theorem engineRun_of_runSend {s t : State} (eng : s.engine = .run (some .send))
    (h : runSend s = .ok t) : EngineRun s t := by
  unfold runSend at h
  split at h
  · cases h
    exact .single (.raised eng)
  · rename_i u hstart
    split at h
    · cases h
    · rename_i v hframe
      exact .head (.sendOffered eng hstart hframe) (engineRun_of_sendWait rfl h)

theorem engineRun_of_runRxInit {s t : State} (eng : s.engine = .run (some .rxInit))
    (h : runRxInit s = .ok t) : EngineRun s t := by
  unfold runRxInit at h
  split at h
  · cases h
    exact .single (.raised eng)
  · split at h <;> cases h
    · exact .single (.raised eng)
    · rename_i hrange
      exact .single (.rxInited eng (by simpa using hrange))

/-- RECV in WAIT_RX waits on, or its answer ends it. -/
theorem engineRun_recvWait {s : State} (eng : s.engine = .waitRx .recv) :
    EngineRun s (recvWait s) := by
  unfold recvWait
  split
  · exact .refl
  · exact .single (.rxFailed eng)
  · exact .single (.received eng)

theorem engineRun_of_runRecv {s t : State} (eng : s.engine = .run (some .recv))
    (h : runRecv s = .ok t) : EngineRun s t := by
  cases h
  exact .head (.recvWaits eng) (engineRun_recvWait rfl)

theorem engineRun_of_runRxProcess {s t : State} (eng : s.engine = .run (some .rxProcess))
    (h : runRxProcess s = .ok t) : EngineRun s t := by
  unfold runRxProcess at h
  split at h
  · cases h
    exact .single (.raised eng)
  · exact .single (.rxProcessed eng ‹_› h)

/-- RX_STEP in WAIT_RX waits on, or its answer ends it. -/
theorem engineRun_of_rxStepWait {s t : State} (eng : s.engine = .waitRx .rxStep)
    (h : rxStepWait s = .ok t) : EngineRun s t := by
  unfold rxStepWait at h
  split at h
  · cases h
    exact .refl
  · cases h
    exact .single (.rxFailed eng)
  · exact .single (.rxStepped eng h)

theorem engineRun_of_runRxStep {s t : State} (eng : s.engine = .run (some .rxStep))
    (h : runRxStep s = .ok t) : EngineRun s t := by
  unfold runRxStep at h
  split at h
  · cases h
    exact .single (.raised eng)
  · exact .head (.rxStepWaits eng ‹_›) (engineRun_of_rxStepWait rfl h)

theorem engineRun_of_runCmd {c : Cmd} {s t : State} (eng : s.engine = .run (some c))
    (h : runCmd c s = .ok t) : EngineRun s t := by
  cases c with
  | encode => exact engineRun_of_runEncode eng h
  | decode => exact engineRun_of_runDecode eng h
  | fragStart => exact engineRun_of_runFragStart eng h
  | fragNext => exact engineRun_of_runFragNext eng h
  | xmit => exact engineRun_of_runXmit eng h
  | send => exact engineRun_of_runSend eng h
  | rxInit => exact engineRun_of_runRxInit eng h
  | recv => exact engineRun_of_runRecv eng h
  | rxProcess => exact engineRun_of_runRxProcess eng h
  | rxStep => exact engineRun_of_runRxStep eng h

/-- Every engine move is a run of small steps. -/
theorem engineRun_of_advanceEngine {s t : State} (h : advanceEngine s = .ok t) : EngineRun s t := by
  unfold advanceEngine at h
  split at h <;> rename_i eng
  · cases h
    exact .refl
  · cases h
    exact .single (.raised eng)
  · exact engineRun_of_runCmd eng h
  · cases h
    exact engineRun_xmitWait eng
  · exact engineRun_of_sendWait eng h
  · cases h
    exact engineRun_recvWait eng
  · exact engineRun_of_rxStepWait eng h

theorem engineRun_of_engineMove {s t : State} (h : engineMove s = .next t) : EngineRun s t := by
  unfold engineMove at h
  cases hc : advanceEngine s with
  | error f => rw [hc] at h; cases h
  | ok u =>
    rw [hc] at h
    cases h
    exact engineRun_of_advanceEngine hc

/-! ### What a small step leaves of the engine -/

theorem phase_eq_waitTx_iff {e : Engine} : e.phase = .waitTx ↔ ∃ op, e = .waitTx op := by
  cases e <;> simp [Engine.phase]

theorem phase_eq_waitRx_iff {e : Engine} : e.phase = .waitRx ↔ ∃ op, e = .waitRx op := by
  cases e <;> simp [Engine.phase]

/-- An arrival ends the running command. -/
theorem arrival_engine {cand : List Byte} {s t : State} (h : arrival cand s = .ok t) :
    t.engine = .idle := by
  obtain ⟨_, _, rfl | rfl | ⟨_, _, _, -, -, -, rfl | ⟨_, rfl⟩⟩⟩ := arrival_cases h <;> rfl

/-- The engine is not idle before a small step. -/
theorem EngineStep.engine_ne_idle {s t : State} (h : EngineStep s t) : s.engine ≠ .idle := by
  cases h <;> simp [*]

/-- An idle engine makes no steps. -/
theorem EngineRun.eq_of_idle {s t : State} (h : EngineRun s t) (hs : s.engine = .idle) : t = s := by
  obtain rfl | ⟨u, hu, -⟩ := Relation.ReflTransGen.cases_head h
  · rfl
  · exact absurd hs hu.engine_ne_idle

end Sys2Proof.Machine
end

section
/-! The machine's invariant, kept by every operation, every small step and every move. -/

namespace Sys2Proof.Machine

open Sys2Proof

/-! ### The invariant in two parts -/

/-- The part of `State.Inv` that speaks of the block's data: memory, buffers, registers and the contexts. -/
structure State.DataInv (s : State) : Prop where
  mem_wf : s.mem.wf = true
  mem_below : s.mem.below hostSpace = true
  txBuf_wf : s.txBuf.wf = true
  txBuf_below : s.txBuf.below s.cfg.maxFrame = true
  rxBuf_wf : s.rxBuf.wf = true
  rxBuf_below : s.rxBuf.below s.cfg.maxFrame = true
  txLen_le : s.txLen.toNat ≤ s.cfg.maxFrame
  rxLen_le : s.rxLen.toNat ≤ s.cfg.maxFrame
  staged : s.status.txValid = true → ∀ i < s.txLen.toNat, (s.txBuf.readByte i).isSome = true
  fragId_shown : s.frag.id = s.fctx.fragid
  message_inRange : inRange s.fctx.base.toNat s.fctx.len.toNat = true
  message_fits : tooLong s.cfg s.fctx.len.toNat s.fctx.align = false
  cursor_le : s.frag.cursor.toNat ≤ s.fctx.len.toNat
  progress : s.status.fragActive = true →
    ∃ k, k < frameCount s.cfg s.fctx.len.toNat s.fctx.align ∧
      s.frag.cursor.toNat = k * chunkStep s.cfg s.fctx.align ∧
      s.frag.offblk.toNat = k * blocksPerChunk s.cfg
  output_inRange : inRange s.rx.outBase.toNat s.rx.outCap.toNat = true
  total_le : s.rx.total.toNat ≤ s.rx.outCap.toNat

/-- Every frame offered to the transport has its answer, or was abandoned. -/
def Settled (log : List TxRecord) : Prop := ∀ r ∈ log, r.fate ≠ .pending

theorem State.Inv.data {s : State} (h : s.Inv) : s.DataInv := { h with }

theorem State.Inv.settled {s : State} (h : s.Inv) (hp : s.engine.phase ≠ .waitTx) :
    Settled s.env.txLog := h.none_inFlight hp

/-- Outside WAIT_TX the engine's part of the invariant is that no frame is in flight. -/
theorem State.DataInv.inv {s : State} (h : s.DataInv) (hp : s.engine.phase ≠ .waitTx)
    (hlog : Settled s.env.txLog)
    (harmed : s.engine = .waitRx .rxStep →
      s.regs.localValid = true ∧ s.status.rxState = .awaitingFrame)
    (hraced : s.engine = .idle → s.env.raced = []) : s.Inv :=
  { h with
    waitTx_staged := fun hw => absurd hw hp
    waitTx_offered := fun hw => absurd hw hp
    one_inFlight := fun r hr => hlog r (List.mem_of_mem_tail hr)
    none_inFlight := fun _ => hlog
    rxStep_armed := harmed
    idle_unraced := hraced }

/-- A command's end keeps the invariant. -/
theorem State.DataInv.finish {s : State} {code : ResultCode} (h : s.DataInv)
    (hlog : Settled s.env.txLog) : (s.finish code).Inv :=
  State.DataInv.inv { h with } (by simp [Engine.phase]) hlog (by simp) (fun _ => rfl)

/-- Offering a staged frame when none is in flight keeps the invariant. -/
theorem State.DataInv.offer {s : State} (h : s.DataInv) (hvalid : s.status.txValid = true)
    {op : TxCmd} (hlog : Settled s.env.txLog) : (s.offer op).Inv :=
  { h with
    waitTx_staged := fun _ => hvalid
    waitTx_offered := fun _ => rfl
    one_inFlight := hlog
    none_inFlight := fun hp => absurd rfl hp
    rxStep_armed := nofun
    idle_unraced := nofun }

/-! ### The transmit side -/

/-- Staging a frame that fits. -/
theorem State.DataInv.stage {s : State} (h : s.DataInv) {frame : List Byte}
    (hfits : frame.length ≤ s.cfg.maxFrame) : (s.stage frame).DataInv := by
  have hlen : (BitVec.ofNat 32 frame.length).toNat = frame.length := by
    have := s.cfg.frame_upper
    simp only [windowBytes] at this
    rw [BitVec.toNat_ofNat]
    omega
  exact { h with
    txBuf_wf := wf_writeBytes h.txBuf_wf _ _
    txBuf_below := below_writeBytes h.txBuf_below (.inr (by simpa using hfits))
    txLen_le := by simpa [hlen] using hfits
    staged := fun _ i hi => by
      have hi : i < frame.length := by simpa [hlen] using hi
      have := readByte_writeBytes s.txBuf 0 frame hi
      rw [Nat.zero_add] at this
      simp [this] }

theorem State.DataInv.drawn {s : State} (h : s.DataInv) (n : Nat) : (s.drawn n).DataInv :=
  { h with }

/-- An answer to a TxSend clears TX_VALID. -/
theorem State.DataInv.answered {s : State} (h : s.DataInv) (a : TxAnswer) (rest : List TxAnswer) :
    (s.answered a rest).DataInv :=
  { h with staged := nofun }

/-- FRAG_START's context latched: no chunk has been produced yet. -/
theorem State.DataInv.of_startMessage {s t : State} (h : s.DataInv) (ht : startMessage s = .ok t) :
    t.DataInv := by
  obtain ⟨-, hrange, hfits, v, e, n, rfl⟩ := startMessage_cases ht
  exact { h with
    fragId_shown := rfl
    message_inRange := hrange
    message_fits := hfits
    cursor_le := Nat.zero_le _
    progress := fun _ => ⟨0, frameCount_pos _ _ _, by simp, by simp⟩ }

/-- Only the last frame of a message is not full, and only it ends at the message's end. -/
theorem nextPlen_of_more {s : State} (h : s.nextMore = true) :
    s.nextPlen = chunkStep s.cfg s.fctx.align ∧
      s.frag.cursor.toNat + s.nextPlen < s.fctx.len.toNat := by
  have hmore : s.frag.cursor.toNat + s.nextPlen < s.fctx.len.toNat := by
    simpa [State.nextMore] using h
  refine ⟨?_, hmore⟩
  unfold State.nextPlen at hmore ⊢
  omega

/-- Frame k + 1 exists when the first k + 1 chunks do not reach the message's end. -/
theorem succ_lt_frameCount {c : Config} {len k : Nat} {align : Bool}
    (h : (k + 1) * chunkStep c align < len) : k + 1 < frameCount c len align := by
  have hpos := chunkStep_pos c align
  have hlen : len ≠ 0 := by omega
  rw [frameCount, if_neg hlen, ceilDiv, Nat.lt_div_iff_mul_lt hpos]
  omega

/-- The offset of a frame of a message that is not too long fits 15 bits. -/
theorem offset_le_of_fits {c : Config} {len k : Nat} {align : Bool}
    (h : tooLong c len align = false) (hk : k < frameCount c len align) : k * blocksPerChunk c ≤ 0x7FFF := by
  have hfits : (frameCount c len align - 1) * blocksPerChunk c ≤ 0x7FFF := by
    simpa [tooLong] using h
  exact Nat.le_trans (Nat.mul_le_mul_right _ (by omega)) hfits

/-- FRAG_CURSOR and FRAG_OFFBLK move past a chunk. -/
theorem State.DataInv.pastNext {s : State} (h : s.DataInv) (hactive : s.status.fragActive = true) :
    s.pastNext.DataInv := by
  have hplen : s.nextPlen ≤ s.fctx.len.toNat - s.frag.cursor.toNat := Nat.min_le_right _ _
  have hcursor := h.cursor_le
  have hlen : s.fctx.len.toNat < 2 ^ 32 := s.fctx.len.isLt
  have hnew : (BitVec.ofNat 32 (s.frag.cursor.toNat + s.nextPlen)).toNat
      = s.frag.cursor.toNat + s.nextPlen := by
    rw [BitVec.toNat_ofNat]
    omega
  have hprogress : s.nextMore = true →
      ∃ k, k < frameCount s.cfg s.fctx.len.toNat s.fctx.align ∧
        s.frag.cursor.toNat + s.nextPlen = k * chunkStep s.cfg s.fctx.align ∧
        s.frag.offblk.toNat + s.nextPlen / s.cfg.blockSize = k * blocksPerChunk s.cfg := by
    intro hmore
    obtain ⟨hfull, hend⟩ := nextPlen_of_more hmore
    obtain ⟨k, -, hk, hoff⟩ := h.progress hactive
    have hnext : s.frag.cursor.toNat + s.nextPlen = (k + 1) * chunkStep s.cfg s.fctx.align := by
      rw [hk, hfull, Nat.succ_mul]
    refine ⟨k + 1, succ_lt_frameCount (by omega), hnext, ?_⟩
    rw [hoff, hfull, chunkStep_div, Nat.succ_mul]
  exact { h with
    cursor_le := by simp only [pastNext_frag, pastNext_fctx, hnew]; omega
    progress := fun hact => by
      have hmore : s.nextMore = true := by
        by_contra hlast
        simp [hlast] at hact
      obtain ⟨k, hk, hcur, hoff⟩ := hprogress hmore
      have := offset_le_of_fits h.message_fits hk
      refine ⟨k, hk, hnew.trans hcur, ?_⟩
      simp only [pastNext_frag, pastNext_cfg, BitVec.toNat_ofNat]
      omega }

/-- The next frame of an active message is built and staged. -/
theorem State.DataInv.of_nextFrame {s t : State} (h : s.DataInv)
    (hactive : s.status.fragActive = true) (ht : nextFrame s = .ok t) : t.DataInv := by
  obtain ⟨p, n, hp, rfl⟩ := nextFrame_cases ht
  refine ((h.drawn n).pastNext hactive).stage ?_
  have h1 := nextPlen_le s
  have h2 := payloadBudget_add s.cfg
  simp only [encodeFrame, List.length_append, length_packHeader, hp, pastNext_cfg, drawn_cfg]
  omega

theorem startMessage_keeps {s t : State} (h : startMessage s = .ok t) :
    t.status.fragActive = true ∧ t.env.txLog = s.env.txLog := by
  obtain ⟨-, -, -, _, _, _, rfl⟩ := startMessage_cases h
  exact ⟨rfl, rfl⟩

theorem nextFrame_keeps {s t : State} (h : nextFrame s = .ok t) :
    t.status.txValid = true ∧ t.env.txLog = s.env.txLog := by
  obtain ⟨_, _, -, rfl⟩ := nextFrame_cases h
  exact ⟨rfl, rfl⟩

/-- With a fate for the frame last offered, none is in flight. -/
theorem settled_settleLast {log : List TxRecord} {fate : TxFate} (hf : fate ≠ .pending)
    (h : ∀ r ∈ log.tail, r.fate ≠ .pending) : Settled (settleLast fate log) := by
  cases log with
  | nil => exact nofun
  | cons r log =>
    intro x hx
    rcases List.mem_cons.1 hx with rfl | hx
    · exact hf
    · exact h x hx

theorem State.Inv.settled_answered {s : State} (h : s.Inv) (a : TxAnswer) (rest : List TxAnswer) :
    Settled (s.answered a rest).env.txLog :=
  settled_settleLast (by simp) h.one_inFlight

/-! ### The receive side -/

theorem State.DataInv.dequeued {s : State} (h : s.DataInv) (rest : List RxAnswer) :
    State.DataInv { s with env.rxQueue := rest } := { h with }

/-- A delivery taken into RXBUF. -/
theorem State.DataInv.storeCandidate {s : State} (h : s.DataInv) (r : List Byte) :
    (s.storeCandidate r).DataInv := by
  have hlen : (r.take s.cfg.maxFrame).length ≤ s.cfg.maxFrame := List.length_take_le _ _
  exact { h with
    rxBuf_wf := wf_writeBytes h.rxBuf_wf _ _
    rxBuf_below := below_writeBytes h.rxBuf_below (.inr (by simp))
    rxLen_le := by
      rw [storeCandidate_rxLen, BitVec.toNat_ofNat]
      exact Nat.le_trans (Nat.mod_le _ _) hlen }

/-- A write to host memory changes memory, which stays well-formed, and the draw counter. -/
theorem State.DataInv.of_memWrite {s t : State} {a : Nat} {p : List Byte} (h : s.DataInv)
    (ht : s.memWrite a p = .ok t) :
    t.DataInv ∧ ∃ (m : Memory) (n : Nat), t = { s with mem := m, env.draws := n } := by
  obtain ⟨hwf, hbelow⟩ := wf_memWrite ht h.mem_wf h.mem_below
  obtain ⟨-, ⟨-, rfl⟩ | rfl⟩ := memWrite_cases ht
  · exact ⟨{ h with mem_wf := hwf, mem_below := hbelow }, _, s.env.draws, rfl⟩
  · exact ⟨{ h with mem_wf := hwf, mem_below := hbelow }, _, _, rfl⟩

/-- An arrival leaves RX_TOTAL within the output region: R174 checks the payload's end first. -/
theorem arrival_total_le {cand : List Byte} {s t : State} (h : arrival cand s = .ok t)
    (hs : s.rx.total.toNat ≤ s.rx.outCap.toNat) : t.rx.total.toNat ≤ s.rx.outCap.toNat := by
  unfold arrival at h
  split at h
  · cases h
    exact hs
  · cases h
    exact hs
  · rename_i hd p _
    split at h
    · cases h
      exact hs
    · rename_i hcap
      split at h
      · cases h
      · rename_i u hu
        have hrx : u.rx = s.rx := by
          obtain ⟨-, ⟨-, rfl⟩ | rfl⟩ := memWrite_cases hu <;> rfl
        split at h <;> cases h
        · rw [finish_rx, hrx]
          exact hs
        · rw [finish_rx, BitVec.toNat_ofNat]
          exact Nat.le_trans (Nat.mod_le _ _) (by omega)

/-- An arrival ends the command with the invariant kept. -/
theorem State.DataInv.of_arrival {s t : State} {cand : List Byte} (h : s.DataInv)
    (hlog : Settled s.env.txLog) (ht : arrival cand s = .ok t) : t.Inv := by
  have htotal := arrival_total_le ht h.total_le
  obtain ⟨code, drop, rfl | rfl | ⟨a, p, u, -, -, hu, hend⟩⟩ := arrival_cases ht
  · exact State.DataInv.finish { h with } hlog
  · exact State.DataInv.finish { h with } hlog
  · obtain ⟨hdata, m, n, rfl⟩ :=
      State.DataInv.of_memWrite (s := { s with status.lastDrop := drop }) { h with } hu
    obtain rfl | ⟨total, rfl⟩ := hend
    · exact hdata.finish hlog
    · exact State.DataInv.finish { hdata with total_le := htotal } hlog

theorem State.DataInv.of_arrivalOfCandidate {s t : State} (h : s.DataInv)
    (hlog : Settled s.env.txLog) (ht : arrivalOfCandidate s = .ok t) : t.Inv :=
  (h.drawn _).of_arrival hlog ht

/-! ### Small steps and engine moves -/

theorem EngineStep.inv {s t : State} (h : EngineStep s t) (hs : s.Inv) : t.Inv := by
  have hd := hs.data
  have hrun {op : Option Cmd} (eng : s.engine = .run op) : Settled s.env.txLog :=
    hs.settled (by simp [eng, Engine.phase])
  have hwait {op : RxCmd} (eng : s.engine = .waitRx op) : Settled s.env.txLog :=
    hs.settled (by simp [eng, Engine.phase])
  cases h with
  | raised eng => exact hd.finish (hrun eng)
  | encoded eng fits => exact State.DataInv.finish ((hd.drawn _).stage fits) (hrun eng)
  | decoded eng => exact State.DataInv.finish { hd with } (hrun eng)
  | malformed eng => exact (hd.drawn _).finish (hrun eng)
  | fragStarted eng start =>
    obtain ⟨-, hlog⟩ := startMessage_keeps start
    exact (hd.of_startMessage start).finish (hlog ▸ hrun eng)
  | fragmented eng active frame =>
    obtain ⟨-, hlog⟩ := nextFrame_keeps frame
    exact (hd.of_nextFrame active frame).finish (hlog ▸ hrun eng)
  | xmitOffered eng valid => exact hd.offer valid (hrun eng)
  | sendOffered eng start frame =>
    obtain ⟨hactive, hlog⟩ := startMessage_keeps start
    obtain ⟨hvalid, hlog'⟩ := nextFrame_keeps frame
    exact ((hd.of_startMessage start).of_nextFrame hactive frame).offer hvalid
      (hlog' ▸ hlog ▸ hrun eng)
  | sendNext _ active frame =>
    obtain ⟨hvalid, hlog⟩ := nextFrame_keeps frame
    exact ((hd.answered _ _).of_nextFrame active frame).offer hvalid
      (hlog ▸ hs.settled_answered _ _)
  | txEnded _ => exact (hd.answered _ _).finish (hs.settled_answered _ _)
  | @sendFailed a rest _ =>
    exact State.DataInv.finish { hd.answered a rest with progress := nofun }
      (hs.settled_answered _ _)
  | rxInited eng range =>
    exact State.DataInv.finish { hd with output_inRange := range, total_le := Nat.zero_le _ }
      (hrun eng)
  | recvWaits eng =>
    exact State.DataInv.inv { hd with } (by simp [Engine.phase]) (hrun eng) nofun nofun
  | rxStepWaits eng armed =>
    exact State.DataInv.inv { hd with } (by simp [Engine.phase]) (hrun eng)
      (fun _ => rxRefusal_eq_none_iff.1 armed) nofun
  | rxFailed eng => exact (hd.dequeued _).finish (hwait eng)
  | received eng => exact State.DataInv.finish ((hd.dequeued _).storeCandidate _) (hwait eng)
  | rxProcessed eng _ arrive => exact hd.of_arrivalOfCandidate (hrun eng) arrive
  | @rxStepped _ r rest eng arrive =>
    exact ((hd.dequeued rest).storeCandidate r).of_arrivalOfCandidate (hwait eng) arrive

theorem EngineRun.inv {s t : State} (h : EngineRun s t) (hs : s.Inv) : t.Inv := by
  induction h with
  | refl => exact hs
  | tail _ hstep ih => exact hstep.inv ih

end Sys2Proof.Machine
end

section
/-! What an instruction and an outside move can do, said once. -/

namespace Sys2Proof.Machine

open Sys2Proof

/-! ### The register map -/

/-- The rows of 10_state.md R20: which targets a word index can name. -/
inductive Names (n : Nat) : Target → Prop
  | rxWindow {k : Nat} (place : n = 0x800 + k) (lt : k < 0x400) : Names n (.rxWindow k)
  | txWindow {k : Nat} (place : n = 0x400 + k) (lt : k < 0x400) : Names n (.txWindow k)
  | localAddr {j : Nat} (place : n = 0x06 + j) (lt : j < 5) : Names n (.localAddr j)
  | remoteAddr {j : Nat} (place : n = 0x0C + j) (lt : j < 5) : Names n (.remoteAddr j)
  | hdrDest {j : Nat} (place : n = 0x20 + j) (lt : j < 5) : Names n (.hdrDest j)
  | hdrSrc {j : Nat} (place : n = 0x26 + j) (lt : j < 5) : Names n (.hdrSrc j)
  | single {t : Target} (row : (n, t) ∈ singleTargets) : Names n t
  | reserved : Names n .reserved

theorem names_targetOf (index : BitVec 12) : Names index.toNat (targetOf index) := by
  unfold targetOf
  extract_lets n
  split_ifs
  · exact .rxWindow (by omega) (by omega)
  · exact .txWindow (by omega) (by omega)
  · exact .localAddr (by omega) (by omega)
  · exact .remoteAddr (by omega) (by omega)
  · exact .hdrDest (by omega) (by omega)
  · exact .hdrSrc (by omega) (by omega)
  · cases hl : singleTargets.lookup n with
    | none => exact .reserved
    | some t =>
      obtain ⟨l₁, l₂, hsplit, -⟩ := List.lookup_eq_some_iff.1 hl
      exact .single (by simp [hsplit, n])

/-- CMD is word 0 only. -/
theorem eq_zero_of_targetOf_cmd {index : BitVec 12} (h : targetOf index = .cmd) : index = 0 := by
  have hn := names_targetOf index
  rw [h] at hn
  cases hn with
  | single row => exact BitVec.eq_of_toNat_eq (by simpa [singleTargets] using row)

/-- STATUS is word 1 only. -/
theorem eq_one_of_targetOf_status {index : BitVec 12} (h : targetOf index = .status) :
    index = 1 := by
  have hn := names_targetOf index
  rw [h] at hn
  cases hn with
  | single row => exact BitVec.eq_of_toNat_eq (by simpa [singleTargets] using row)

/-! ### Instructions -/

/-- A word written to CMD, a command's or not, is the REG_WRITE of it. -/
theorem exec_regWrite_zero (data : Word) (s : State) :
    exec (.regWrite 0 data) s = writeCmd data s := rfl

/-- An instruction that writes CMD issues its command; a block that is ready makes the engine's move from
RUN (43_host_access.md R203, R204). -/
theorem exec_of_writesCmd {i : Instr} (h : writesCmd i = true) (s : State) :
    exec i s =
      if s.busy then .next { s with status.cmdOvr := true }
      else if s.overlapped then .next (s.begin (commandIssued i))
      else engineMove (s.begin (commandIssued i)) := by
  cases i with
  | regRead index => cases h
  | regWrite index data =>
    obtain rfl : index = 0 := by simpa [writesCmd] using h
    rw [exec_regWrite_zero, show commandIssued (.regWrite 0 data) = commandOf data from rfl]
    cases hc : commandOf data with
    | none => simp only [writeCmd, hc]; rfl
    | some c => cases c <;> simp only [writeCmd, hc] <;> rfl
  | _ => rfl

/-- A register other than CMD and STATUS ignores a write while BUSY = 1 (43_host_access.md R205). -/
theorem regWrite_of_busy {s : State} (hb : s.busy = true) {index : BitVec 12}
    (hc : targetOf index ≠ .cmd) (hs : targetOf index ≠ .status) (data : Word) :
    exec (.regWrite index data) s = .next s := by
  cases ht : targetOf index with
  | cmd => exact absurd ht hc
  | status => exact absurd ht hs
  | _ => simp [exec, execRegWrite, ht, hb]

/-- All that an instruction can do when it answers. -/
inductive ExecCase (i : Instr) (s : State) : State → Prop
  /-- A command written while BUSY = 1. -/
  | lost (cmd : writesCmd i = true) (busy : s.busy = true) :
      ExecCase i s { s with status.cmdOvr := true }
  /-- A command accepted, an outside move being next. -/
  | begun (cmd : writesCmd i = true) (idle : s.engine = .idle) :
      ExecCase i s (s.begin (commandIssued i))
  /-- A command accepted, and the engine's move that follows. -/
  | ran {t : State} (cmd : writesCmd i = true) (idle : s.engine = .idle)
      (run : EngineRun (s.begin (commandIssued i)) t) : ExecCase i s t
  | read {index : BitVec 12} {data : Word} {draws busyDraws : Nat} (instr : i = .regRead index) :
      ExecCase i s { s with env := { s.env with
        busData := data, draws := draws, busyDraws := busyDraws } }
  | statusWritten {data : Word} (instr : i = .regWrite 1 data) : ExecCase i s (s.writeStatus data)
  /-- A register written while BUSY = 0. -/
  | written {index : BitVec 12} {data : Word} (instr : i = .regWrite index data)
      (idle : s.engine = .idle) (not_cmd : targetOf index ≠ .cmd)
      (not_status : targetOf index ≠ .status) :
      ExecCase i s (s.writeTarget data (targetOf index))
  /-- A register written while BUSY = 1. -/
  | ignored : ExecCase i s s

theorem execCase_of_writesCmd {i : Instr} {s t : State} (hi : writesCmd i = true)
    (h : exec i s = .next t) : ExecCase i s t := by
  rw [exec_of_writesCmd hi] at h
  split_ifs at h with hbusy hover
  · cases h
    exact .lost hi hbusy
  · cases h
    exact .begun hi (busy_eq_false_iff.1 (by simpa using hbusy))
  · exact .ran hi (busy_eq_false_iff.1 (by simpa using hbusy)) (engineRun_of_engineMove h)

theorem execCase_of_regRead {index : BitVec 12} {s t : State}
    (h : exec (.regRead index) s = .next t) : ExecCase (.regRead index) s t := by
  cases hb : s.busy with
  | true =>
    rw [regRead_of_busy hb] at h
    cases h
    exact .read rfl
  | false =>
    rw [regRead_of_idle (busy_eq_false_iff.1 hb)] at h
    cases h
    exact .read rfl

theorem execCase_of_regWrite {index : BitVec 12} {data : Word} {s t : State}
    (hc : targetOf index ≠ .cmd) (h : exec (.regWrite index data) s = .next t) :
    ExecCase (.regWrite index data) s t := by
  by_cases hs : targetOf index = .status
  · obtain rfl := eq_one_of_targetOf_status hs
    cases h
    exact .statusWritten rfl
  · cases hb : s.busy with
    | false =>
      have he := busy_eq_false_iff.1 hb
      rw [regWrite_of_idle he rfl hc] at h
      cases h
      exact .written rfl he hc hs
    | true =>
      rw [regWrite_of_busy hb hc hs] at h
      cases h
      exact .ignored

theorem execCase_of_exec {i : Instr} {s t : State} (h : exec i s = .next t) : ExecCase i s t := by
  cases hi : writesCmd i with
  | true => exact execCase_of_writesCmd hi h
  | false =>
    cases i with
    | regRead index => exact execCase_of_regRead h
    | regWrite index data =>
      refine execCase_of_regWrite (fun hc => ?_) h
      simp [writesCmd, eq_zero_of_targetOf_cmd hc] at hi
    | _ => cases hi

/-! ### Outside moves -/

/-- A transaction that answers is an instruction: the decoded one, or a write of an illegal word to CMD. -/
theorem exec_of_transact {bytes : List Byte} {s t : State} (h : transact bytes s = .next t) :
    ∃ i, exec i s = .next t := by
  unfold transact at h
  split at h
  · exact ⟨_, h⟩
  · exact ⟨.regWrite 0 _, h⟩
  · cases h

/-- A host access that answers is an instruction, or no business of the block's. -/
theorem exec_of_hostAccess {addr : Nat} {wdata : Option Word} {s t : State}
    (h : hostAccess addr wdata s = .next t) : t = s ∨ ∃ i, exec i s = .next t := by
  unfold hostAccess at h
  split at h
  · exact .inr ⟨_, h⟩
  · exact .inr ⟨_, h⟩
  · cases h
    exact .inl rfl

/-- A step that answers is an engine move or the next outside move. -/
theorem step_cases {s t : State} (h : step s = .next t) :
    EngineRun s t ∨
    ∃ m rest, s.env.schedule = m :: rest ∧
      occur m.event { s with env.schedule := rest } = .next t := by
  unfold step at h
  split at h
  · split at h
    · exact .inl (engineRun_of_engineMove h)
    · cases h
      exact .inl .refl
  · rename_i m rest hsched
    split at h
    · exact .inl (engineRun_of_engineMove h)
    · exact .inr ⟨m, rest, hsched, h⟩

end Sys2Proof.Machine
end

section
/-! Every step keeps the invariant. -/

namespace Sys2Proof.Machine

open Sys2Proof

/-! ### Instructions -/

theorem State.Inv.begin {s : State} (h : s.Inv) (idle : s.engine = .idle) (op : Option Cmd) :
    (s.begin op).Inv :=
  State.DataInv.inv { h.data with } (by simp [Engine.phase])
    (h.settled (by simp [idle, Engine.phase])) nofun nofun

theorem State.Inv.writeStatus {s : State} (h : s.Inv) (data : Word) : (s.writeStatus data).Inv := by
  unfold State.writeStatus
  split
  · exact { h with }
  · exact h

/-- A window write stays inside the buffer (10_state.md R45). -/
theorem wf_writeWindow {cfg : Config} {buf : Memory} (hw : buf.wf = true)
    (hb : buf.below cfg.maxFrame = true) (k : Nat) (data : Word) :
    (writeWindow cfg buf k data).wf = true ∧
      (writeWindow cfg buf k data).below cfg.maxFrame = true := by
  refine ⟨wf_writeBytes hw _ _, below_writeBytes hb ?_⟩
  rcases Nat.le_total cfg.maxFrame (4 * k) with hk | hk
  · left
    rw [Nat.sub_eq_zero_of_le hk, List.take_zero]
  · right
    have : ((leBytes 4 data.toNat).take (cfg.maxFrame - 4 * k)).length ≤ cfg.maxFrame - 4 * k :=
      List.length_take_le _ _
    omega

/-- A register write keeps the data's invariant: RXLEN and the RXBUF window are bounded, no other register
is spoken of. -/
theorem State.DataInv.writeTarget {s : State} (h : s.DataInv) (data : Word) (t : Target) :
    (s.writeTarget data t).DataInv := by
  cases t with
  | status =>
    simp only [State.writeTarget, State.writeStatus]
    split
    · exact { h with }
    · exact h
  | rxLen =>
    simp only [State.writeTarget]
    split
    · exact { h with rxLen_le := ‹_› }
    · exact h
  | rxWindow k =>
    obtain ⟨hw, hb⟩ := wf_writeWindow h.rxBuf_wf h.rxBuf_below k data
    exact { h with rxBuf_wf := hw, rxBuf_below := hb }
  | _ => exact { h with }

theorem State.Inv.writeTarget {s : State} (h : s.Inv) (idle : s.engine = .idle) (data : Word)
    (t : Target) : (s.writeTarget data t).Inv := by
  obtain ⟨-, hengine, -, -, -, -, -, -, -, henv⟩ := writeTarget_frame s data t
  rw [idle] at hengine
  refine (h.data.writeTarget data t).inv (by simp [hengine, Engine.phase]) ?_ (by simp [hengine]) ?_
  · rw [henv]
    exact h.settled (by simp [idle, Engine.phase])
  · intro _
    rw [henv]
    exact h.idle_unraced idle

theorem exec_inv {i : Instr} {s t : State} (h : exec i s = .next t) (hs : s.Inv) : t.Inv := by
  cases execCase_of_exec h with
  | lost => exact { hs with }
  | begun _ idle => exact hs.begin idle _
  | ran _ idle run => exact run.inv (hs.begin idle _)
  | read => exact { hs with }
  | statusWritten => exact hs.writeStatus _
  | written _ idle => exact hs.writeTarget idle _ _
  | ignored => exact hs

/-! ### The host's memory -/

theorem State.Inv.hostStored {s : State} (h : s.Inv) {a : Nat} {bytes : List Byte}
    (hrange : inRange a bytes.length = true) : (s.hostStored a bytes).Inv := by
  have hfit : bytes = [] ∨ a + bytes.length ≤ hostSpace := by simpa using inRange_iff.1 hrange
  exact { h with
    mem_wf := wf_writeBytes h.mem_wf _ _
    mem_below := below_writeBytes h.mem_below hfit
    idle_unraced := fun (idle : s.engine = .idle) => by
      simp [busy_eq_false_iff.2 idle, h.idle_unraced idle] }

/-- Whether frames are in flight is a matter of their fates alone. -/
theorem forall_fate_iff {l : List TxRecord} :
    (∀ r ∈ l, r.fate ≠ .pending) ↔ .pending ∉ l.map (·.fate) := by
  simp

/-- Freeing the bytes SEND has read leaves every written byte of TXBUF written. -/
theorem isSome_freedTxBuf {s : State} {i : Nat} (h : (s.txBuf.readByte i).isSome = true) :
    (s.freedTxBuf.readByte i).isSome = true := by
  rw [readByte_freedTxBuf]
  split_ifs <;> simp [h]

/-- Freeing the bytes SEND has read changes values only: no bound, no length, no fate. -/
theorem State.Inv.freeBytesRead {s : State} (h : s.Inv) : s.freeBytesRead.Inv := by
  obtain ⟨hwf, hbelow⟩ := wf_freedTxBuf h.txBuf_wf h.txBuf_below h.txLen_le
  have hfates : s.freeBytesRead.env.txLog.map (·.fate) = s.env.txLog.map (·.fate) := by simp
  exact { h with
    txBuf_wf := hwf
    txBuf_below := hbelow
    staged := fun hv i hi => isSome_freedTxBuf (h.staged hv i hi)
    waitTx_offered := fun hp => by
      rw [← List.head?_map, hfates, List.head?_map]
      exact h.waitTx_offered hp
    one_inFlight := by
      rw [forall_fate_iff, List.map_tail, hfates, ← List.map_tail, ← forall_fate_iff]
      exact h.one_inFlight
    none_inFlight := fun hp => by
      rw [forall_fate_iff, hfates, ← forall_fate_iff]
      exact h.none_inFlight hp }

theorem hostStore_inv {addr : Word} {bytes : List Byte} {s t : State}
    (h : hostStore addr bytes s = .next t) (hs : s.Inv) : t.Inv := by
  obtain ⟨hrange, ⟨-, -, rfl⟩ | ⟨-, rfl⟩⟩ := hostStore_cases h
  · exact (hs.hostStored hrange).freeBytesRead
  · exact hs.hostStored hrange

theorem hostLoad_inv {addr : Word} {n : Nat} {s t : State} (h : hostLoad addr n s = .next t)
    (hs : s.Inv) : t.Inv := by
  obtain ⟨-, _, _, rfl, -⟩ := hostLoad_cases h
  exact { hs with }

/-! ### Reset -/

/-- A reset block meets the invariant when what reset leaves of the surroundings does. -/
theorem inv_resetWith {cfg : Config} {mem : Memory} {env : Env} (hwf : mem.wf = true)
    (hbelow : mem.below hostSpace = true) (hlog : Settled env.txLog) (hraced : env.raced = []) :
    (State.resetWith cfg mem env).Inv := by
  refine State.DataInv.inv ?_ (by simp [State.resetWith, Engine.phase]) hlog nofun fun _ => hraced
  exact {
    mem_wf := hwf
    mem_below := hbelow
    txBuf_wf := rfl
    txBuf_below := rfl
    rxBuf_wf := rfl
    rxBuf_below := rfl
    txLen_le := Nat.zero_le _
    rxLen_le := Nat.zero_le _
    staged := nofun
    fragId_shown := rfl
    message_inRange := rfl
    message_fits := by
      simp [State.resetWith, Fctx.reset, tooLong, frameCount]
    cursor_le := Nat.le_refl _
    progress := nofun
    output_inRange := rfl
    total_le := Nat.le_refl _ }

/-- A write cut by reset keeps memory well-formed and the log as it is. -/
theorem State.DataInv.of_cutWrite {s t : State} (h : s.DataInv) (ht : cutWrite s = .ok t) :
    t.DataInv ∧ t.env.txLog = s.env.txLog := by
  unfold cutWrite at ht
  split at ht
  · cases ht
    exact ⟨h, rfl⟩
  · obtain ⟨hd, _, _, rfl⟩ := (h.drawn _).of_memWrite ht
    exact ⟨hd, rfl⟩

/-- Abandoning a command leaves no frame in flight. -/
theorem State.Inv.of_abandonCommand {s t : State} (h : s.Inv) (ht : abandonCommand s = .ok t) :
    t.DataInv ∧ Settled t.env.txLog := by
  unfold abandonCommand at ht
  split at ht
  · cases ht
    exact ⟨{ h.data with }, settled_settleLast (by simp) h.one_inFlight⟩
  · rename_i hnot
    have hlog : Settled s.env.txLog := h.settled fun hp =>
      (phase_eq_waitTx_iff.1 hp).elim hnot
    split at ht
    · split at ht
      · cases ht
        exact ⟨h.data, hlog⟩
      · split at ht
        · split at ht
          · cases ht
          · rename_i u hu
            obtain ⟨hd, hl⟩ := (h.data.drawn 1).of_cutWrite hu
            cases ht
            exact ⟨{ hd with }, hl ▸ hlog⟩
        · cases ht
          exact ⟨h.data.drawn 1, hlog⟩
    · obtain ⟨hd, hl⟩ := h.data.of_cutWrite ht
      exact ⟨hd, hl ▸ hlog⟩

theorem resetBlock_inv {s t : State} (h : resetBlock s = .next t) (hs : s.Inv) : t.Inv := by
  unfold resetBlock at h
  split at h
  · cases h
  · rename_i u hu
    obtain ⟨hd, hlog⟩ := hs.of_abandonCommand hu
    cases h
    exact inv_resetWith hd.mem_wf hd.mem_below hlog rfl

/-! ### Moves and steps -/

theorem occur_inv {e : Event} {s t : State} (h : occur e s = .next t) (hs : s.Inv) : t.Inv := by
  cases e with
  | bus bytes =>
    obtain ⟨i, hi⟩ := exec_of_transact h
    exact exec_inv hi hs
  | access addr wdata =>
    obtain rfl | ⟨i, hi⟩ := exec_of_hostAccess h
    · exact hs
    · exact exec_inv hi hs
  | hostStore addr bytes => exact hostStore_inv h hs
  | hostLoad addr n => exact hostLoad_inv h hs
  | txAnswer a =>
    cases h
    exact { hs with }
  | rxAnswer a =>
    cases h
    exact { hs with }
  | reset => exact resetBlock_inv h hs

/-- Settles O4: a step is a run of the engine's small steps or one outside move, and each keeps the
invariant. -/
theorem everyStepKeepsTheInvariant : Obligations.EveryStepKeepsTheInvariant := by
  intro s t hs h
  obtain hrun | ⟨m, rest, -, hmove⟩ := step_cases h
  · exact hrun.inv hs
  · exact occur_inv hmove { hs with }

end Sys2Proof.Machine
end

section
/-! The step as a transaction, and the register map as the host reads and writes it. -/

namespace Sys2Proof.Machine

open Sys2Proof

/-! ### A step that is the host's transaction -/

/-- The next outside move comes when the engine cannot go on first, or the move overlaps it. -/
theorem step_of_move {s : State} {m : Move} {rest : List Move} (hs : s.env.schedule = m :: rest)
    (hm : s.engineReady = false ∨ m.overlap = true) :
    step s = occur m.event { s with env.schedule := rest } := by
  have hguard : (s.engineReady && !m.overlap) = false := by
    rcases hm with h | h <;> simp [h]
  unfold step
  rw [hs]
  simp [hguard]

theorem transact_of_decode {bytes : List Byte} {i : Instr} (h : decode bytes = .ok i) (s : State) :
    transact bytes s = exec i s := by
  simp only [transact, h]

theorem transact_of_illegal {bytes : List Byte} {w : Word}
    (h : decode bytes = .error (.illegalCommand w)) (s : State) :
    transact bytes s = writeCmd w s := by
  simp only [transact, h]

theorem decode_of_decodeTableWord {nbits w : Nat} {i : Instr}
    (h : decodeTableWord nbits w = some i) : decode (tableBytes nbits w) = .ok i := by
  unfold decodeTableWord at h
  split at h
  · cases h
    assumption
  · cases h

/-- Settles O1: the step takes the next outside move, whose bytes `transact` decodes. -/
theorem stepRunsTheDecodedTransaction : Obligations.StepRunsTheDecodedTransaction := by
  refine ⟨?decoded, ?illegal, ?fetched⟩
  case decoded =>
    intro s m rest bytes i hs hm hready hd
    rw [step_of_move hs hready, hm]
    exact transact_of_decode hd _
  case illegal =>
    intro s m rest bytes w hs hm hready hd
    rw [step_of_move hs hready, hm, exec_regWrite_zero]
    exact transact_of_illegal hd _
  case fetched =>
    intro s nbits w i hd
    rw [step_of_move (s := s.withFetchWord nbits w) rfl (.inr rfl)]
    exact transact_of_decode (decode_of_decodeTableWord hd) _

/-! ### Register reads -/

theorem zero_append {w : Nat} (n : Nat) (v : BitVec w) : 0#n ++ v = v.setWidth (n + w) := by
  apply BitVec.eq_of_toNat_eq
  have : v.toNat < 2 ^ (n + w) :=
    Nat.lt_of_lt_of_le v.isLt (Nat.pow_le_pow_right (by decide) (Nat.le_add_left w n))
  simp [BitVec.toNat_append, Nat.mod_eq_of_lt this]

theorem toNat_append_byte {n : Nat} (v : BitVec n) (b : Byte) :
    (v ++ b).toNat = 256 * v.toNat + b.toNat := by
  rw [BitVec.toNat_append, ← Nat.shiftLeft_add_eq_or_of_lt b.isLt, Nat.shiftLeft_eq, Nat.mul_comm]

/-- A word of four bytes is their number, the lowest byte in bits [7:0] (10_state.md R22). -/
theorem ofNat_leNat_four (a b c d : Byte) :
    BitVec.ofNat 32 (leNat [a, b, c, d]) = d ++ c ++ b ++ a := by
  apply BitVec.eq_of_toNat_eq
  have := leNat_lt [a, b, c, d]
  simp only [toNat_append_byte, BitVec.toNat_ofNat, leNat, List.length_cons, List.length_nil] at *
  omega

/-- Four bytes of a sequence, 0x00 where it is shorter. -/
theorem leNat_take_four (l : List Byte) :
    leNat (l.take 4) = leNat [l.getD 0 0, l.getD 1 0, l.getD 2 0, l.getD 3 0] := by
  rcases l with _ | ⟨a, _ | ⟨b, _ | ⟨c, _ | ⟨d, l⟩⟩⟩⟩ <;> simp [leNat]

theorem addrWord_eq_addressWord (a : Addr) (j : Nat) : a.word j = addressWord a j := by
  have hget (i : Nat) : (a.bytes.drop (4 * j)).getD i 0 = a.bytes.getD (4 * j + i) 0 := by
    simp [List.getD_eq_getElem?_getD]
  simp only [Addr.word, slice, Nat.add_sub_cancel_left, leNat_take_four, ofNat_leNat_four, hget]
  rfl

/-- While BUSY = 0 the register map lists what a read of each named offset returns. -/
theorem registerRows_eq {s : State} (h : s.engine = .idle) :
    registerRows s = namedOffsets.map (fun o => (o, s.readTarget (targetOf (indexAt o)))) := by
  have hb : BitVec.ofBool s.busy = 0#1 := by rw [busy_eq_false_iff.2 h]; rfl
  simp only [registerRows, addressRows, ← addrWord_eq_addressWord, zero_append (w := 8) 24,
    zero_append (w := 16) 16, ← hb]
  rfl

/-- Settles O20: the rows are what `readTarget` returns at the named offsets. -/
theorem idleReadsReturnTheRegisterMap : Obligations.IdleReadsReturnTheRegisterMap := by
  intro s offset v idle hrow
  rw [registerRows_eq idle] at hrow
  obtain ⟨o, -, heq⟩ := List.mem_map.1 hrow
  cases heq
  exact ⟨_, regRead_of_idle idle _⟩

/-! ### Reserved offsets -/

/-- An index the map does not name is reserved (10_state.md R46). -/
theorem targetOf_eq_reserved {index : BitVec 12} (h : 4 * index.toNat ∉ namedOffsets)
    (hw : index.toNat < 0x400 ∨ 0xC00 ≤ index.toNat) : targetOf index = .reserved := by
  have hn := names_targetOf index
  simp only [namedOffsets, List.mem_append, List.mem_cons, List.not_mem_nil, or_false] at h
  generalize targetOf index = t at hn ⊢
  cases hn with
  | reserved => rfl
  | single row =>
    simp only [singleTargets, List.mem_append, List.mem_cons, List.not_mem_nil, or_false,
      Prod.mk.injEq] at row
    omega
  | _ => omega

/-- A reserved offset ignores a write, whatever BUSY is. -/
theorem regWrite_of_reserved {index : BitVec 12} (h : targetOf index = .reserved) (data : Word)
    (s : State) : exec (.regWrite index data) s = .next s := by
  simp [exec, execRegWrite, h, State.writeTarget]

/-- Settles O21: an unnamed index outside the windows names no target, in `names_targetOf`'s cases. -/
theorem reservedOffsetsReadZeroAndIgnoreWrites :
    Obligations.ReservedOffsetsReadZeroAndIgnoreWrites := by
  intro s index data hnamed hwindow
  have ht := targetOf_eq_reserved hnamed hwindow
  refine ⟨regWrite_of_reserved ht data s, ?_⟩
  cases hb : s.busy with
  | true => exact ⟨_, by rw [regRead_of_busy hb, ht]; rfl⟩
  | false => exact ⟨_, by rw [regRead_of_idle (busy_eq_false_iff.1 hb), ht]; rfl⟩

/-! ### The buffer windows -/

theorem targetOf_rxWindow {k : Nat} (h : k < 0x400) :
    targetOf (BitVec.ofNat 12 (0x800 + k)) = .rxWindow k := by
  have hn : (BitVec.ofNat 12 (0x800 + k)).toNat = 0x800 + k := by
    rw [BitVec.toNat_ofNat]
    omega
  unfold targetOf
  rw [hn, if_pos (by omega), Nat.add_sub_cancel_left]

theorem targetOf_txWindow {k : Nat} (h : k < 0x400) :
    targetOf (BitVec.ofNat 12 (0x400 + k)) = .txWindow k := by
  have hn : (BitVec.ofNat 12 (0x400 + k)).toNat = 0x400 + k := by
    rw [BitVec.toNat_ofNat]
    omega
  unfold targetOf
  rw [hn, if_neg (by omega), if_pos (by omega), Nat.add_sub_cancel_left]

/-- Byte i of a number, least significant first. -/
theorem getElem?_leBytes {n i : Nat} (h : i < n) (v : Nat) :
    (leBytes n v)[i]? = some (BitVec.ofNat 8 (v / 256 ^ i)) := by
  induction n generalizing v i with
  | zero => omega
  | succ n ih =>
    cases i with
    | zero => simp [leBytes]
    | succ i =>
      rw [leBytes, List.getElem?_cons_succ, ih (by omega), Nat.div_div_eq_div_mul, pow_succ']

/-- Bits [8i + 7 : 8i] of a word are byte i of its number. -/
theorem getElem?_leBytes_toNat {i : Nat} (h : i < 4) (w : Word) :
    (leBytes 4 w.toNat)[i]? = some (w.extractLsb' (8 * i) 8) := by
  rw [getElem?_leBytes h]
  congr 1
  apply BitVec.eq_of_toNat_eq
  rw [BitVec.extractLsb'_toNat, BitVec.toNat_ofNat, Nat.shiftRight_eq_div_pow, pow_mul]
  rfl

/-- Byte i of a word made of four bytes. -/
theorem extractLsb'_ofNat_leNat {bytes : List Byte} (hlen : bytes.length = 4) {i : Nat}
    (hi : i < 4) : some ((BitVec.ofNat 32 (leNat bytes)).extractLsb' (8 * i) 8) = bytes[i]? := by
  have hlt : leNat bytes < 2 ^ 32 := by simpa [hlen] using leNat_lt bytes
  rw [← getElem?_leBytes_toNat hi, BitVec.toNat_ofNat, Nat.mod_eq_of_lt hlt, ← hlen, leBytes_leNat]

/-- Byte i of a window word is byte 4k + i of the buffer. -/
theorem extractLsb'_windowWord (cfg : Config) (buf : Memory) (draw k : Nat) {i : Nat} (hi : i < 4) :
    (windowWord cfg buf draw k).extractLsb' (8 * i) 8 =
      bufferByte cfg buf (draw + i) (4 * k + i) := by
  have h := extractLsb'_ofNat_leNat (length_bufferBytes cfg buf draw (4 * k) 4) hi
  rw [bufferBytes, List.getElem?_map, List.getElem?_range hi] at h
  exact Option.some.inj h

/-- A window word shows each written byte at its place, and 0 at or above MAX_FRAME_SIZE. -/
theorem windowWord_shows (cfg : Config) (buf : Memory) (draw k : Nat) :
    (∀ i b, i < 4 → 4 * k + i < cfg.maxFrame → buf.readByte (4 * k + i) = some b →
      (windowWord cfg buf draw k).extractLsb' (8 * i) 8 = b) ∧
    (∀ i, i < 4 → cfg.maxFrame ≤ 4 * k + i →
      (windowWord cfg buf draw k).extractLsb' (8 * i) 8 = 0) := by
  constructor
  · intro i b hi hlt hb
    rw [extractLsb'_windowWord _ _ _ _ hi, bufferByte, if_pos hlt, hb, Option.getD_some]
  · intro i hi hge
    rw [extractLsb'_windowWord _ _ _ _ hi, bufferByte, if_neg (Nat.not_lt.2 hge)]

/-- A window write puts each of its bytes below MAX_FRAME_SIZE at its place, and changes no other. -/
theorem readByte_writeWindow (cfg : Config) (buf : Memory) (k : Nat) (w : Word) :
    (∀ i, i < 4 → 4 * k + i < cfg.maxFrame →
      (writeWindow cfg buf k w).readByte (4 * k + i) = some (w.extractLsb' (8 * i) 8)) ∧
    (∀ j, j < 4 * k ∨ 4 * k + 4 ≤ j ∨ cfg.maxFrame ≤ j →
      (writeWindow cfg buf k w).readByte j = buf.readByte j) := by
  have hlen : ((leBytes 4 w.toNat).take (cfg.maxFrame - 4 * k)).length
      = min (cfg.maxFrame - 4 * k) 4 := by simp
  constructor
  · intro i hi hlt
    rw [writeWindow, readByte_writeBytes _ _ _ (by omega), ← List.getElem?_eq_getElem,
      List.getElem?_take_of_lt (by omega), getElem?_leBytes_toNat hi]
  · intro j hj
    exact readByte_writeBytes_of_not_mem _ _ _ (by omega)

/-- Settles O23: four byte-wise facts of the window words, two for writes and two for reads. -/
theorem windowWordsPackBytesLowFirst : Obligations.WindowWordsPackBytesLowFirst := by
  intro s k data idle hk
  have hrx := targetOf_rxWindow hk
  have htx := targetOf_txWindow hk
  refine ⟨?writeRx, ?writeTx, ?readRx, ?readTx⟩
  case writeRx =>
    obtain ⟨hin, hout⟩ := readByte_writeWindow s.cfg s.rxBuf k data
    exact ⟨_, regWrite_of_idle idle hrx nofun data, rfl, hin, hout⟩
  case writeTx => exact regWrite_of_idle idle htx nofun data
  case readRx =>
    refine ⟨_, _, regRead_of_idle idle _, ?_⟩
    rw [hrx]
    exact windowWord_shows _ _ _ _
  case readTx =>
    refine ⟨_, _, regRead_of_idle idle _, ?_⟩
    rw [htx]
    exact windowWord_shows _ _ _ _

/-! ### RXLEN -/

/-- Settles O24: a register write while BUSY = 0 is the write of its target, which compares with
MAX_FRAME_SIZE. -/
theorem rxlenWritesAreBounded : Obligations.RxlenWritesAreBounded := by
  intro s data idle
  rw [regWrite_of_idle idle (t := .rxLen) rfl (by decide)]
  constructor
  · intro h
    simp only [State.writeTarget, if_pos h]
  · intro h
    simp only [State.writeTarget, if_neg (Nat.not_le.2 h)]

end Sys2Proof.Machine
end

section
/-! What the engine's moves and the instructions change of STATUS, RESULT and the header registers. -/

namespace Sys2Proof.Machine

open Sys2Proof

/-! ### What building a frame leaves alone -/

/-- The transmit side works without touching HDR_*, RX_STATE and RESULT. -/
structure SameReceiver (s t : State) : Prop where
  hdr : t.hdr = s.hdr
  rxState : t.status.rxState = s.status.rxState
  result : t.result = s.result

theorem SameReceiver.trans {s t u : State} (h₁ : SameReceiver s t) (h₂ : SameReceiver t u) :
    SameReceiver s u :=
  ⟨h₂.hdr.trans h₁.hdr, h₂.rxState.trans h₁.rxState, h₂.result.trans h₁.result⟩

theorem sameReceiver_startMessage {s t : State} (h : startMessage s = .ok t) :
    SameReceiver s t := by
  obtain ⟨-, -, -, _, _, _, rfl⟩ := startMessage_cases h
  exact ⟨rfl, rfl, rfl⟩

theorem sameReceiver_nextFrame {s t : State} (h : nextFrame s = .ok t) : SameReceiver s t := by
  obtain ⟨_, _, -, rfl⟩ := nextFrame_cases h
  exact ⟨rfl, rfl, rfl⟩

/-- SEND's first frame: the message is begun and its frame built. -/
theorem sameReceiver_firstFrame {s u t : State} (hu : startMessage s = .ok u)
    (ht : nextFrame u = .ok t) : SameReceiver s t :=
  (sameReceiver_startMessage hu).trans (sameReceiver_nextFrame ht)

/-! ### The running command along its small steps -/

/-- A small step ends the command, or leaves it running and RESULT as it is. -/
theorem EngineStep.ends_or_keeps {s t : State} (h : EngineStep s t) :
    t.engine = .idle ∨ (t.engine.op = s.engine.op ∧ t.result = s.result) := by
  cases h with
  | xmitOffered eng => exact .inr ⟨by rw [eng]; rfl, rfl⟩
  | sendOffered eng start frame =>
    exact .inr ⟨by rw [eng]; rfl, (sameReceiver_firstFrame start frame).result⟩
  | sendNext eng _ frame => exact .inr ⟨by rw [eng]; rfl, (sameReceiver_nextFrame frame).result⟩
  | recvWaits eng => exact .inr ⟨by rw [eng]; rfl, rfl⟩
  | rxStepWaits eng => exact .inr ⟨by rw [eng]; rfl, rfl⟩
  | rxProcessed _ _ arrive => exact .inl (arrival_engine arrive)
  | rxStepped _ arrive => exact .inl (arrival_engine arrive)
  | _ => exact .inl rfl

/-- What each small step of a command may change, in a relation that composes, the whole run may. -/
theorem EngineRun.lift {R : Option Cmd → State → State → Prop} (refl : ∀ op s, R op s s)
    (trans : ∀ op a b c, R op a b → R op b c → R op a c)
    (step : ∀ s t, EngineStep s t → R s.engine.op s t) {s t : State} (h : EngineRun s t) :
    R s.engine.op s t := by
  induction h using Relation.ReflTransGen.head_induction_on with
  | refl => exact refl _ _
  | head hstep hrun ih =>
    obtain hidle | ⟨hop, -⟩ := hstep.ends_or_keeps
    · obtain rfl := EngineRun.eq_of_idle hrun hidle
      exact step _ _ hstep
    · exact trans _ _ _ _ (step _ _ hstep) (hop ▸ ih)

/-- RESULT is written by a command's end only. -/
theorem EngineRun.idle_or_result {s t : State} (h : EngineRun s t) :
    t.engine = .idle ∨ t.result = s.result := by
  induction h with
  | refl => exact .inr rfl
  | tail _ hstep ih =>
    have hkept := ih.resolve_left hstep.engine_ne_idle
    exact hstep.ends_or_keeps.imp_right fun h => h.2.trans hkept

/-- BUSY falls at a command's end only, and an engine move never raises it. -/
theorem EngineRun.busy {s t : State} (h : EngineRun s t) (hne : t.busy ≠ s.busy) :
    s.busy = true ∧ t.engine = .idle := by
  cases hs : s.busy with
  | true =>
    rw [hs] at hne
    exact ⟨rfl, busy_eq_false_iff.1 (by simpa using hne)⟩
  | false =>
    obtain rfl := EngineRun.eq_of_idle h (busy_eq_false_iff.1 hs)
    exact absurd rfl hne

/-! ### The flags of STATUS -/

/-- How the running command may change the flags of STATUS: the table of 10_state.md R48. -/
structure StatusMove (op : Option Cmd) (a b : Status) : Prop where
  cmdOvr : b.cmdOvr = a.cmdOvr
  fragActive : b.fragActive ≠ a.fragActive →
    (op = some .fragStart ∧ b.fragActive = true) ∨ (op = some .fragNext ∧ b.fragActive = false) ∨
    op = some .send
  txValid : b.txValid ≠ a.txValid →
    (op = some .encode ∧ b.txValid = true) ∨ (op = some .fragNext ∧ b.txValid = true) ∨
    (op = some .xmit ∧ b.txValid = false) ∨ op = some .send
  lastDrop : b.lastDrop ≠ a.lastDrop →
    (op = some .rxInit ∧ b.lastDrop = .none) ∨ op = some .rxProcess ∨ op = some .rxStep

theorem StatusMove.refl (op : Option Cmd) (a : Status) : StatusMove op a a where
  cmdOvr := rfl
  fragActive h := absurd rfl h
  txValid h := absurd rfl h
  lastDrop h := absurd rfl h

theorem StatusMove.trans {op : Option Cmd} {a b c : Status} (h₁ : StatusMove op a b)
    (h₂ : StatusMove op b c) : StatusMove op a c where
  cmdOvr := h₂.cmdOvr.trans h₁.cmdOvr
  fragActive h := by
    by_cases hbc : c.fragActive = b.fragActive
    · exact hbc ▸ h₁.fragActive (hbc ▸ h)
    · exact h₂.fragActive hbc
  txValid h := by
    by_cases hbc : c.txValid = b.txValid
    · exact hbc ▸ h₁.txValid (hbc ▸ h)
    · exact h₂.txValid hbc
  lastDrop h := by
    by_cases hbc : c.lastDrop = b.lastDrop
    · exact hbc ▸ h₁.lastDrop (hbc ▸ h)
    · exact h₂.lastDrop hbc

/-- SEND writes FRAG_ACTIVE and TX_VALID only. -/
theorem StatusMove.send (a : Status) (active valid : Bool) :
    StatusMove (some .send) a { a with fragActive := active, txValid := valid } where
  cmdOvr := rfl
  fragActive _ := .inr (.inr rfl)
  txValid _ := .inr (.inr (.inr rfl))
  lastDrop h := absurd rfl h

/-- An arrival writes LAST_DROP, may end the reassembly, and changes no other flag, no header register. -/
theorem arrival_status {cand : List Byte} {s t : State} (h : arrival cand s = .ok t) :
    t.hdr = s.hdr ∧ ∃ drop final, t.status = { s.status with lastDrop := drop, rxState := final } ∧
      (final = s.status.rxState ∨ final = .complete ∨ final = .aborted) := by
  obtain ⟨_, drop, rfl | rfl | ⟨_, _, u, -, -, hu, hend⟩⟩ := arrival_cases h
  · exact ⟨rfl, drop, _, rfl, .inl rfl⟩
  · exact ⟨rfl, drop, _, rfl, .inr (.inr rfl)⟩
  · obtain ⟨-, ⟨-, rfl⟩ | rfl⟩ := memWrite_cases hu <;> obtain rfl | ⟨_, rfl⟩ := hend
    · exact ⟨rfl, drop, _, rfl, .inl rfl⟩
    · exact ⟨rfl, drop, _, rfl, .inr (.inl rfl)⟩
    · exact ⟨rfl, drop, _, rfl, .inl rfl⟩
    · exact ⟨rfl, drop, _, rfl, .inr (.inl rfl)⟩

/-- An arrival's change of STATUS is one RX_PROCESS and RX_STEP may make. -/
theorem statusMove_of_arrival {s t : State} {op : Option Cmd}
    (h : arrivalOfCandidate s = .ok t) (hop : op = some .rxProcess ∨ op = some .rxStep) :
    StatusMove op s.status t.status := by
  obtain ⟨-, drop, final, hstatus, -⟩ := arrival_status h
  rw [hstatus, drawn_status]
  exact ⟨rfl, fun h => absurd rfl h, fun h => absurd rfl h, fun _ => .inr hop⟩

theorem EngineStep.statusMove {s t : State} (h : EngineStep s t) :
    StatusMove s.engine.op s.status t.status := by
  cases h with
  | encoded eng => constructor <;> simp [eng, Engine.op]
  | fragStarted eng start =>
    obtain ⟨-, -, -, _, _, _, rfl⟩ := startMessage_cases start
    constructor <;> simp [eng, Engine.op]
  | fragmented eng active frame =>
    obtain ⟨_, _, -, rfl⟩ := nextFrame_cases frame
    constructor <;> simp [eng, active, Engine.op]
  | sendOffered eng start frame =>
    obtain ⟨-, -, -, _, _, _, rfl⟩ := startMessage_cases start
    obtain ⟨_, _, -, rfl⟩ := nextFrame_cases frame
    rw [eng]
    exact .send _ _ _
  | sendNext eng _ frame =>
    obtain ⟨_, _, -, rfl⟩ := nextFrame_cases frame
    rw [eng]
    exact .send _ _ _
  | @txEnded op _ _ _ eng =>
    rw [eng]
    cases op with
    | xmit => constructor <;> simp [Engine.op]
    | send => exact .send _ _ _
  | sendFailed eng =>
    rw [eng]
    exact .send _ _ _
  | rxInited eng => constructor <;> simp [eng, Engine.op]
  | rxProcessed eng _ arrive => exact statusMove_of_arrival arrive (.inl (by rw [eng]; rfl))
  | rxStepped eng arrive =>
    exact (statusMove_of_arrival (op := s.engine.op) arrive (.inr (by rw [eng]; rfl)) :)
  | _ => exact .refl _ _

theorem EngineRun.statusMove {s t : State} (h : EngineRun s t) :
    StatusMove s.engine.op s.status t.status :=
  h.lift (R := fun op a b => StatusMove op a.status b.status) (fun _ _ => .refl _ _)
    (fun _ _ _ _ => .trans) fun _ _ => EngineStep.statusMove

/-! ### RX_STATE -/

/-- How the running command may change RX_STATE: the transitions of 10_state.md R42. -/
def RxMove (op : Option Cmd) (a b : RxState) : Prop :=
  b = a ∨ (op = some .rxInit ∧ b = .awaitingFrame) ∨
    ((op = some .rxProcess ∨ op = some .rxStep) ∧ a = .awaitingFrame ∧
      (b = .complete ∨ b = .aborted))

theorem RxMove.refl (op : Option Cmd) (a : RxState) : RxMove op a a := .inl rfl

theorem RxMove.trans {op : Option Cmd} {a b c : RxState} (h₁ : RxMove op a b)
    (h₂ : RxMove op b c) : RxMove op a c := by
  obtain rfl | ⟨hop, rfl⟩ | ⟨hop, rfl, hend⟩ := h₂
  · exact h₁
  · exact .inr (.inl ⟨hop, rfl⟩)
  · obtain rfl | ⟨hinit, -⟩ | ⟨-, -, hb | hb⟩ := h₁
    · exact .inr (.inr ⟨hop, rfl, hend⟩)
    · simp [hinit] at hop
    · cases hb
    · cases hb

/-- RX_STEP waits only in AWAITING_FRAME (42_reassembler.md R176). -/
def State.Armed (s : State) : Prop :=
  s.engine = .waitRx .rxStep → s.status.rxState = .awaitingFrame

theorem State.armed_of_idle {s : State} (h : s.engine = .idle) : s.Armed := fun hw => by
  rw [h] at hw
  cases hw

/-- Whatever state a small step starts from, RX_STEP is armed after it. -/
theorem EngineStep.armed {s t : State} (h : EngineStep s t) : t.Armed := by
  cases h with
  | rxStepWaits _ armed => exact fun _ => (rxRefusal_eq_none_iff.1 armed).2
  | rxProcessed _ _ arrive => exact State.armed_of_idle (arrival_engine arrive)
  | rxStepped _ arrive => exact State.armed_of_idle (arrival_engine arrive)
  | _ => exact nofun

/-- An arrival in AWAITING_FRAME makes a transition of RX_PROCESS and RX_STEP. -/
theorem rxMove_of_arrival {s t : State} {op : Option Cmd} (h : arrivalOfCandidate s = .ok t)
    (hop : op = some .rxProcess ∨ op = some .rxStep) (hs : s.status.rxState = .awaitingFrame) :
    RxMove op s.status.rxState t.status.rxState := by
  obtain ⟨-, drop, final, hstatus, hfinal⟩ := arrival_status h
  rw [hstatus]
  exact hfinal.imp id fun hend => .inr ⟨hop, hs, hend⟩

theorem EngineStep.rxMove {s t : State} (h : EngineStep s t) (hs : s.Armed) :
    RxMove s.engine.op s.status.rxState t.status.rxState := by
  cases h with
  | fragStarted _ start => exact .inl (sameReceiver_startMessage start).rxState
  | fragmented _ _ frame => exact .inl (sameReceiver_nextFrame frame).rxState
  | sendOffered _ start frame => exact .inl (sameReceiver_firstFrame start frame).rxState
  | sendNext _ _ frame => exact .inl (sameReceiver_nextFrame frame).rxState
  | rxInited eng => exact .inr (.inl ⟨by rw [eng]; rfl, rfl⟩)
  | rxProcessed eng armed arrive =>
    exact rxMove_of_arrival arrive (.inl (by rw [eng]; rfl)) (rxRefusal_eq_none_iff.1 armed).2
  | rxStepped eng arrive =>
    exact (rxMove_of_arrival (op := s.engine.op) arrive (.inr (by rw [eng]; rfl)) (hs eng) :)
  | _ => exact .refl _ _

theorem EngineRun.rxMove {s t : State} (h : EngineRun s t) (hs : s.Armed) :
    RxMove s.engine.op s.status.rxState t.status.rxState := by
  have hlift := h.lift
    (R := fun op a b => a.Armed → RxMove op a.status.rxState b.status.rxState ∧ b.Armed)
    (fun _ _ ha => ⟨.refl _ _, ha⟩)
    (fun _ _ _ _ hab hbc ha => ⟨(hab ha).1.trans (hbc (hab ha).2).1, (hbc (hab ha).2).2⟩)
    (fun _ _ hstep ha => ⟨hstep.rxMove ha, hstep.armed⟩)
  exact (hlift hs).1

/-! ### The header registers -/

/-- Of the commands, DECODE alone writes HDR_* (10_state.md R21). -/
theorem EngineStep.hdr {s t : State} (h : EngineStep s t) :
    t.hdr = s.hdr ∨ s.engine.op = some .decode := by
  cases h with
  | decoded eng => exact .inr (by rw [eng]; rfl)
  | fragStarted _ start => exact .inl (sameReceiver_startMessage start).hdr
  | fragmented _ _ frame => exact .inl (sameReceiver_nextFrame frame).hdr
  | sendOffered _ start frame => exact .inl (sameReceiver_firstFrame start frame).hdr
  | sendNext _ _ frame => exact .inl (sameReceiver_nextFrame frame).hdr
  | rxProcessed _ _ arrive => exact .inl (arrival_status arrive).1
  | rxStepped _ arrive => exact .inl (arrival_status arrive).1
  | _ => exact .inl rfl

theorem EngineRun.hdr {s t : State} (h : EngineRun s t) :
    t.hdr = s.hdr ∨ s.engine.op = some .decode :=
  h.lift (R := fun op a b => b.hdr = a.hdr ∨ op = some .decode) (fun _ _ => .inl rfl)
    (fun _ _ _ _ hab hbc => hab.elim (fun h => hbc.imp_left (·.trans h)) .inr)
    fun _ _ => EngineStep.hdr

end Sys2Proof.Machine
end

section
/-! Who writes STATUS, RESULT and the header registers, and how long a wait lasts: the statements. -/

namespace Sys2Proof.Machine

open Sys2Proof

/-! ### What a register write leaves alone -/

@[simp] theorem writeStatus_engine (data : Word) (s : State) :
    (s.writeStatus data).engine = s.engine := by
  unfold State.writeStatus
  split <;> rfl

theorem sameReceiver_writeStatus (data : Word) (s : State) :
    SameReceiver s (s.writeStatus data) := by
  unfold State.writeStatus
  split <;> exact ⟨rfl, rfl, rfl⟩

theorem writeTarget_status {t : Target} (ht : t ≠ .status) (s : State) (data : Word) :
    (s.writeTarget data t).status = s.status := by
  cases t with
  | status => exact absurd rfl ht
  | rxLen => simp only [State.writeTarget]; split <;> rfl
  | _ => rfl

/-- The targets of 0x080 .. 0x0C4, the header registers (10_state.md R21). -/
def Target.inHeader : Target → Bool
  | .hdrDest _ | .hdrSrc _ | .hdrType | .hdrProto | .hdrPlen | .hdrFragid | .hdrOffset
  | .hdrCksum => true
  | _ => false

theorem writeTarget_hdr {t : Target} (ht : t.inHeader = false) (s : State) (data : Word) :
    (s.writeTarget data t).hdr = s.hdr := by
  cases t with
  | status => exact (sameReceiver_writeStatus data s).hdr
  | rxLen => simp only [State.writeTarget]; split <;> rfl
  | hdrDest | hdrSrc | hdrType | hdrProto | hdrPlen | hdrFragid | hdrOffset | hdrCksum => cases ht
  | _ => rfl

/-- The header registers lie at word indices 0x20 .. 0x31. -/
theorem Names.header_range {n : Nat} {t : Target} (h : Names n t) (ht : t.inHeader = true) :
    0x20 ≤ n ∧ n ≤ 0x31 := by
  cases h with
  | hdrDest => omega
  | hdrSrc => omega
  | single row =>
    have hrows : ∀ r ∈ singleTargets, r.2.inHeader = true → 0x20 ≤ r.1 ∧ r.1 ≤ 0x31 := by decide
    exact hrows _ row ht
  | _ => cases ht

/-! ### STATUS -/

/-- All that an instruction does to STATUS: what the command it issues may, or the two writes of CMD_OVR. -/
theorem exec_status {i : Instr} {s t : State} (h : exec i s = .next t) :
    StatusMove (commandIssued i) s.status t.status ∨
    (writesCmd i = true ∧ s.busy = true ∧ t.status = { s.status with cmdOvr := true }) ∨
    ∃ data : Word, i = .regWrite 1 data ∧ data.getLsbD 1 = true ∧
      t.status = { s.status with cmdOvr := false } := by
  cases execCase_of_exec h with
  | lost cmd busy => exact .inr (.inl ⟨cmd, busy, rfl⟩)
  | begun => exact .inl (.refl _ _)
  | ran _ _ run => exact .inl run.statusMove
  | read => exact .inl (.refl _ _)
  | @statusWritten data instr =>
    unfold State.writeStatus
    split
    · exact .inr (.inr ⟨data, instr, ‹_›, rfl⟩)
    · exact .inl (.refl _ _)
  | written _ _ _ not_status =>
    rw [writeTarget_status not_status]
    exact .inl (.refl _ _)
  | ignored => exact .inl (.refl _ _)

/-- BUSY changes in an instruction only when it is a CMD write accepted while BUSY = 0 (10_state.md R48). -/
theorem exec_busy {i : Instr} {s t : State} (h : exec i s = .next t) (hne : t.busy ≠ s.busy) :
    writesCmd i = true ∧ s.busy = false := by
  cases execCase_of_exec h with
  | begun cmd idle => exact ⟨cmd, busy_eq_false_iff.2 idle⟩
  | ran cmd idle => exact ⟨cmd, busy_eq_false_iff.2 idle⟩
  | statusWritten => simp [State.busy] at hne
  | @written index data =>
    obtain ⟨-, hengine, -⟩ := writeTarget_frame s data (targetOf index)
    simp [State.busy, hengine] at hne
  | _ => exact absurd rfl hne

/-- A move of the host's memory or of the transport touches neither STATUS, nor the engine, nor RESULT. -/
theorem occur_frame {e : Event} {s t : State} (hbus : ∀ bytes, e ≠ .bus bytes)
    (haccess : ∀ a w, e ≠ .access a w) (hreset : e ≠ .reset) (h : occur e s = .next t) :
    t.status = s.status ∧ t.engine = s.engine ∧ t.result = s.result := by
  cases e with
  | bus bytes => exact absurd rfl (hbus bytes)
  | access a w => exact absurd rfl (haccess a w)
  | hostStore addr bytes =>
    obtain ⟨-, ⟨-, -, rfl⟩ | ⟨-, rfl⟩⟩ := hostStore_cases h <;> simp
  | hostLoad addr n =>
    obtain ⟨-, _, _, rfl, -⟩ := hostLoad_cases h
    exact ⟨rfl, rfl, rfl⟩
  | txAnswer a =>
    cases h
    exact ⟨rfl, rfl, rfl⟩
  | rxAnswer a =>
    cases h
    exact ⟨rfl, rfl, rfl⟩
  | reset => exact absurd rfl hreset

/-- Settles O46: an instruction's STATUS is that of the command's small steps or one of the two writes of
CMD_OVR, and an engine move's that of the small steps. -/
theorem statusFlagsChangeOnlyAsListed : Obligations.StatusFlagsChangeOnlyAsListed := by
  refine ⟨?instr, ?engine, ?outside⟩
  case instr =>
    intro i s t h
    refine ⟨exec_busy h, ?_⟩
    obtain hmove | ⟨hcmd, hbusy, hst⟩ | ⟨data, hi, hbit, hst⟩ := exec_status h
    · exact ⟨fun hne => absurd hmove.cmdOvr hne, hmove.fragActive, hmove.txValid, hmove.lastDrop⟩
    · rw [hst]
      exact ⟨fun _ => .inl ⟨hcmd, hbusy, rfl⟩, fun h => absurd rfl h, fun h => absurd rfl h,
        fun h => absurd rfl h⟩
    · rw [hst]
      exact ⟨fun _ => .inr ⟨data, hi, hbit, rfl⟩, fun h => absurd rfl h, fun h => absurd rfl h,
        fun h => absurd rfl h⟩
  case engine =>
    intro s t h
    have hrun := engineRun_of_engineMove h
    have hmove := hrun.statusMove
    exact ⟨hrun.busy, hmove.cmdOvr, hmove.fragActive, hmove.txValid, hmove.lastDrop⟩
  case outside =>
    intro e s t hbus haccess hreset h
    obtain ⟨hstatus, hengine, -⟩ := occur_frame hbus haccess hreset h
    exact ⟨hstatus, hengine⟩

/-! ### RX_STATE -/

/-- An instruction makes the transitions of RX_STATE its command may. -/
theorem exec_rxMove {i : Instr} {s t : State} (h : exec i s = .next t) :
    RxMove (commandIssued i) s.status.rxState t.status.rxState := by
  cases execCase_of_exec h with
  | ran _ _ run => exact run.rxMove nofun
  | statusWritten => exact .inl (sameReceiver_writeStatus _ s).rxState
  | written _ _ _ not_status => exact .inl (by rw [writeTarget_status not_status])
  | _ => exact .inl rfl

/-- Settles O44: RX_STATE follows the small steps, and RX_STEP waits armed. -/
theorem onlyTheListedCommandsMoveTheReassembler :
    Obligations.OnlyTheListedCommandsMoveTheReassembler := by
  constructor
  · intro i s t h
    exact exec_rxMove h
  · intro s t h hs
    exact (engineRun_of_engineMove h).rxMove fun hw => (hs.rxStep_armed hw).2

/-! ### RESULT -/

/-- An instruction that changes RESULT is an accepted CMD write whose command has ended. -/
theorem exec_result {i : Instr} {s t : State} (h : exec i s = .next t) (hne : t.result ≠ s.result) :
    writesCmd i = true ∧ s.busy = false ∧ t.busy = false := by
  cases execCase_of_exec h with
  | ran cmd idle run =>
    exact ⟨cmd, busy_eq_false_iff.2 idle,
      busy_eq_false_iff.2 (run.idle_or_result.resolve_right hne)⟩
  | statusWritten => exact absurd (sameReceiver_writeStatus _ s).result hne
  | @written index data =>
    obtain ⟨-, -, hresult, -⟩ := writeTarget_frame s data (targetOf index)
    exact absurd hresult hne
  | _ => exact absurd rfl hne

/-- Settles O47: along the small steps RESULT stays until the command ends. -/
theorem onlyTheEndOfACommandWritesResult : Obligations.OnlyTheEndOfACommandWritesResult := by
  constructor
  · intro i s t h hne
    exact exec_result h hne
  · intro s t h hne
    have hrun := engineRun_of_engineMove h
    have hend : t.engine = .idle := hrun.idle_or_result.resolve_right hne
    refine ⟨?_, busy_eq_false_iff.2 hend⟩
    by_contra hb
    obtain rfl := EngineRun.eq_of_idle hrun (busy_eq_false_iff.1 (by simpa using hb))
    exact hne rfl

/-! ### The header registers -/

/-- Settles O48: of the commands DECODE alone changes them, of the register writes those of their own
targets, which `names_targetOf` places. -/
theorem onlyDecodeAndTheHostWriteTheHeaderRegisters :
    Obligations.OnlyDecodeAndTheHostWriteTheHeaderRegisters := by
  constructor
  · intro i s t h hne
    cases execCase_of_exec h with
    | ran _ _ run => exact .inl (run.hdr.resolve_left hne)
    | statusWritten => exact absurd (sameReceiver_writeStatus _ s).hdr hne
    | @written index data instr =>
      cases hin : (targetOf index).inHeader with
      | false => exact absurd (writeTarget_hdr hin s data) hne
      | true =>
        obtain ⟨hlo, hhi⟩ := (names_targetOf index).header_range hin
        exact .inr ⟨index, data, instr, by omega, by omega⟩
    | _ => exact absurd rfl hne
  · intro s t h hne
    exact (engineRun_of_engineMove h).hdr.resolve_left hne

/-! ### Waits -/

/-- While BUSY = 1 no instruction touches the engine or RESULT (43_host_access.md R204, R205). -/
theorem exec_frame_of_busy {i : Instr} {s t : State} (h : exec i s = .next t)
    (hb : s.engine ≠ .idle) : t.engine = s.engine ∧ t.result = s.result := by
  cases execCase_of_exec h with
  | begun _ idle => exact absurd idle hb
  | ran _ idle => exact absurd idle hb
  | written _ idle => exact absurd idle hb
  | statusWritten => exact ⟨writeStatus_engine _ s, (sameReceiver_writeStatus _ s).result⟩
  | _ => exact ⟨rfl, rfl⟩

/-- While BUSY = 1 no outside move but a reset touches the engine or RESULT. -/
theorem occur_frame_of_busy {e : Event} {s t : State} (h : occur e s = .next t)
    (hb : s.engine ≠ .idle) (hreset : e ≠ .reset) :
    t.engine = s.engine ∧ t.result = s.result := by
  cases e with
  | bus bytes =>
    obtain ⟨i, hi⟩ := exec_of_transact h
    exact exec_frame_of_busy hi hb
  | access addr wdata =>
    obtain rfl | ⟨i, hi⟩ := exec_of_hostAccess h
    · exact ⟨rfl, rfl⟩
    · exact exec_frame_of_busy hi hb
  | _ => exact (occur_frame (by simp) (by simp) hreset h).2

/-- In a wait without an answer the engine cannot go on, and it is not idle. -/
theorem waits_of_no_answer {s : State} (h : (s.engine.phase = .waitTx ∧ s.env.txAnswers = []) ∨
    (s.engine.phase = .waitRx ∧ s.env.rxQueue = [])) :
    s.engineReady = false ∧ s.engine ≠ .idle := by
  obtain ⟨hp, hnone⟩ | ⟨hp, hnone⟩ := h
  · obtain ⟨op, he⟩ := phase_eq_waitTx_iff.1 hp
    simp [State.engineReady, he, hnone]
  · obtain ⟨op, he⟩ := phase_eq_waitRx_iff.1 hp
    simp [State.engineReady, he, hnone]

/-- Settles O50: the engine is not ready, so the step is the outside move, and only a reset reaches the
engine of a busy block. -/
theorem waitsLastUntilTheTransportAnswers : Obligations.WaitsLastUntilTheTransportAnswers := by
  intro s hwait
  obtain ⟨hready, hbusy⟩ := waits_of_no_answer hwait
  constructor
  · intro hs
    simp [step, hs, hready]
  · intro m rest t hs hreset h
    rw [step_of_move hs (.inl hready)] at h
    exact (occur_frame_of_busy h hbusy hreset :)

end Sys2Proof.Machine
end

section
/-! What the engine's moves and the instructions change outside the block's registers: host memory, the frames
the transport has been offered, and the design-time parameters, which nothing changes. -/

namespace Sys2Proof.Machine

open Sys2Proof

/-! ### Writes to host memory -/

/-- A MemWrite changes host memory and the draw counter only. -/
theorem memWrite_frame {s t : State} {a : Nat} {p : List Byte} (h : s.memWrite a p = .ok t) :
    ∃ (m : Memory) (n : Nat), t = { s with mem := m, env.draws := n } := by
  obtain ⟨-, ⟨-, rfl⟩ | rfl⟩ := memWrite_cases h
  · exact ⟨_, s.env.draws, rfl⟩
  · exact ⟨_, _, rfl⟩

/-- A MemWrite, raced or not, changes no byte outside its addresses. -/
theorem readByte_memWrite_of_not_mem {s t : State} {a : Nat} {p : List Byte}
    (h : s.memWrite a p = .ok t) {b : Nat} (hb : b < a ∨ a + p.length ≤ b) :
    t.mem.readByte b = s.mem.readByte b := by
  obtain ⟨-, ⟨-, rfl⟩ | rfl⟩ := memWrite_cases h
  · exact readByte_writeBytes_of_not_mem _ _ _ hb
  · exact readByte_raceBytes_of_not_mem _ _ _ _ _ hb

/-! ### What a command changes outside the block -/

/-- The address is outside the latched output region [RX_OUT_BASE, RX_OUT_BASE + RX_OUT_CAP). -/
def State.OutsideOutput (s : State) (x : Nat) : Prop :=
  x < s.rx.outBase.toNat ∨ s.rx.outBase.toNat + s.rx.outCap.toNat ≤ x

/-- The frames offered to the transport, newest first. -/
def State.framesLogged (s : State) : List (List Byte) := s.env.txLog.map (·.frame)

/-- How the running command may change what is not its block's own. -/
structure WorldMove (op : Option Cmd) (a b : State) : Prop where
  cfg : b.cfg = a.cfg
  offered : a.framesLogged <:+ b.framesLogged
  region : op ≠ some .rxInit → b.rx.outBase = a.rx.outBase ∧ b.rx.outCap = a.rx.outCap
  writers : op ≠ some .rxProcess → op ≠ some .rxStep → b.mem = a.mem
  outside : ∀ x, a.OutsideOutput x → b.mem.readByte x = a.mem.readByte x

/-- A change of registers, buffers and the log alone. -/
theorem WorldMove.of_rx_mem {op : Option Cmd} {a b : State} (cfg : b.cfg = a.cfg) (rx : b.rx = a.rx)
    (mem : b.mem = a.mem) (offered : a.framesLogged <:+ b.framesLogged) : WorldMove op a b where
  cfg := cfg
  offered := offered
  region _ := by rw [rx]; exact ⟨rfl, rfl⟩
  writers _ _ := mem
  outside _ _ := by rw [mem]

theorem WorldMove.refl (op : Option Cmd) (a : State) : WorldMove op a a :=
  .of_rx_mem rfl rfl rfl (List.suffix_refl _)

/-- RX_INIT moves the output region and writes nothing; every other command writes one region throughout. -/
theorem WorldMove.trans {op : Option Cmd} {a b c : State} (h₁ : WorldMove op a b)
    (h₂ : WorldMove op b c) : WorldMove op a c where
  cfg := h₂.cfg.trans h₁.cfg
  offered := h₁.offered.trans h₂.offered
  region hop := ⟨(h₂.region hop).1.trans (h₁.region hop).1, (h₂.region hop).2.trans (h₁.region hop).2⟩
  writers hp hs := (h₂.writers hp hs).trans (h₁.writers hp hs)
  outside x hx := by
    have hbc : c.mem.readByte x = b.mem.readByte x := by
      by_cases hop : op = some .rxInit
      · rw [h₂.writers (by simp [hop]) (by simp [hop])]
      · obtain ⟨hbase, hcap⟩ := h₁.region hop
        exact h₂.outside x (by rw [State.OutsideOutput, hbase, hcap]; exact hx)
    exact hbc.trans (h₁.outside x hx)

/-- An answer changes a frame's fate, not the frame. -/
@[simp] theorem map_frame_settleLast (fate : TxFate) (log : List TxRecord) :
    (settleLast fate log).map (·.frame) = log.map (·.frame) := by
  cases log <;> rfl

@[simp] theorem framesLogged_answered (a : TxAnswer) (rest : List TxAnswer) (s : State) :
    (s.answered a rest).framesLogged = s.framesLogged := map_frame_settleLast _ _

/-- An arrival stores inside the output region only (42_reassembler.md R174, R177). -/
theorem worldMove_of_arrival {cand : List Byte} {s t : State} {op : Option Cmd}
    (h : arrival cand s = .ok t) (hop : op = some .rxProcess ∨ op = some .rxStep) :
    WorldMove op s t := by
  obtain ⟨_, _, rfl | rfl | ⟨a, p, u, hlo, hhi, hu, hend⟩⟩ := arrival_cases h
  · exact .of_rx_mem rfl rfl rfl (List.suffix_refl _)
  · exact .of_rx_mem rfl rfl rfl (List.suffix_refl _)
  · have hout : ∀ x, s.OutsideOutput x → u.mem.readByte x = s.mem.readByte x := fun x hx =>
      readByte_memWrite_of_not_mem hu (by unfold State.OutsideOutput at hx; omega)
    obtain ⟨m, n, rfl⟩ := memWrite_frame hu
    obtain rfl | ⟨_, rfl⟩ := hend
    all_goals
      exact {
        cfg := rfl
        offered := List.suffix_refl _
        region := fun _ => ⟨rfl, rfl⟩
        writers := fun hp hs => (hop.elim hp hs).elim
        outside := hout }

theorem EngineStep.worldMove {s t : State} (h : EngineStep s t) :
    WorldMove s.engine.op s t := by
  cases h with
  | fragStarted _ start =>
    obtain ⟨-, -, -, _, _, _, rfl⟩ := startMessage_cases start
    exact .of_rx_mem rfl rfl rfl (List.suffix_refl _)
  | fragmented _ _ frame =>
    obtain ⟨_, _, -, rfl⟩ := nextFrame_cases frame
    exact .of_rx_mem rfl rfl rfl (List.suffix_refl _)
  | xmitOffered => exact .of_rx_mem rfl rfl rfl (List.suffix_cons _ _)
  | sendOffered _ start frame =>
    obtain ⟨-, -, -, _, _, _, rfl⟩ := startMessage_cases start
    obtain ⟨_, _, -, rfl⟩ := nextFrame_cases frame
    exact .of_rx_mem rfl rfl rfl (List.suffix_cons _ _)
  | @sendNext _ a rest _ _ frame =>
    obtain ⟨_, _, -, rfl⟩ := nextFrame_cases frame
    refine .of_rx_mem rfl rfl rfl ?_
    rw [← framesLogged_answered a rest]
    exact List.suffix_cons _ _
  | @txEnded _ a rest => exact .of_rx_mem rfl rfl rfl ⟨[], (framesLogged_answered a rest s).symm⟩
  | @sendFailed a rest => exact .of_rx_mem rfl rfl rfl ⟨[], (framesLogged_answered a rest s).symm⟩
  | rxInited eng =>
    exact {
      cfg := rfl
      offered := List.suffix_refl _
      region := fun hop => absurd (by rw [eng]; rfl) hop
      writers := fun _ _ => rfl
      outside := fun _ _ => rfl }
  | rxProcessed eng _ arrive =>
    have hmove := worldMove_of_arrival (op := s.engine.op) arrive (.inl (by rw [eng]; rfl))
    exact { hmove with }
  | rxStepped eng arrive =>
    have hmove := worldMove_of_arrival (op := s.engine.op) arrive (.inr (by rw [eng]; rfl))
    exact { hmove with }
  | _ => exact .of_rx_mem rfl rfl rfl (List.suffix_refl _)

theorem EngineRun.worldMove {s t : State} (h : EngineRun s t) : WorldMove s.engine.op s t :=
  h.lift WorldMove.refl (fun _ _ _ _ => .trans) fun _ _ => EngineStep.worldMove

theorem worldMove_writeTarget (op : Option Cmd) (s : State) (data : Word) (t : Target) :
    WorldMove op s (s.writeTarget data t) := by
  obtain ⟨hcfg, -, -, -, -, -, hrx, -, hmem, henv⟩ := writeTarget_frame s data t
  refine .of_rx_mem hcfg hrx hmem ?_
  rw [State.framesLogged, State.framesLogged, henv]

/-- An instruction changes of the world what its command may: a register access changes none of it. -/
theorem exec_worldMove {i : Instr} {s t : State} (h : exec i s = .next t) :
    WorldMove (commandIssued i) s t := by
  cases execCase_of_exec h with
  | ran _ _ run =>
    have hbegun : WorldMove (commandIssued i) s (s.begin (commandIssued i)) :=
      .of_rx_mem rfl rfl rfl (List.suffix_refl _)
    exact hbegun.trans run.worldMove
  | statusWritten => exact worldMove_writeTarget _ s _ .status
  | written => exact worldMove_writeTarget _ s _ _
  | _ => exact .of_rx_mem rfl rfl rfl (List.suffix_refl _)

/-! ### Host memory and the transport's log -/

/-- Settles O45: an arrival writes the latched region, which only RX_INIT moves, and RX_INIT writes
nothing. -/
theorem hostMemoryIsWrittenOnlyInTheOutputRegion :
    Obligations.HostMemoryIsWrittenOnlyInTheOutputRegion := by
  constructor
  · intro i s t h
    have hmove := exec_worldMove h
    exact ⟨hmove.outside, hmove.writers⟩
  · intro s t h
    have hmove := (engineRun_of_engineMove h).worldMove
    exact ⟨hmove.outside, hmove.writers⟩

/-- Settles O49: along the small steps the log of frames only grows at its head. -/
theorem theTransportSeesFramesInOrder : Obligations.TheTransportSeesFramesInOrder := by
  constructor
  · intro i s t h
    exact (exec_worldMove h).offered.imp fun _ => Eq.symm
  · intro s t h
    exact (engineRun_of_engineMove h).worldMove.offered.imp fun _ => Eq.symm

/-! ### The design-time parameters -/

theorem memWrite_cfg {s t : State} {a : Nat} {p : List Byte} (h : s.memWrite a p = .ok t) :
    t.cfg = s.cfg := by
  obtain ⟨_, _, rfl⟩ := memWrite_frame h
  rfl

theorem cutWrite_cfg {s t : State} (h : cutWrite s = .ok t) : t.cfg = s.cfg := by
  unfold cutWrite at h
  split at h
  · cases h
    rfl
  · exact (memWrite_cfg h :)

theorem abandonCommand_cfg {s t : State} (h : abandonCommand s = .ok t) : t.cfg = s.cfg := by
  unfold abandonCommand at h
  split at h
  · cases h
    rfl
  · split at h
    · split at h
      · cases h
        rfl
      · split at h
        · split at h
          · cases h
          · rename_i u hu
            cases h
            exact (cutWrite_cfg hu :)
        · cases h
          rfl
    · exact cutWrite_cfg h

theorem resetBlock_cfg {s t : State} (h : resetBlock s = .next t) : t.cfg = s.cfg := by
  unfold resetBlock at h
  split at h
  · cases h
  · rename_i u hu
    cases h
    exact (abandonCommand_cfg hu :)

theorem occur_cfg {e : Event} {s t : State} (h : occur e s = .next t) : t.cfg = s.cfg := by
  cases e with
  | bus bytes =>
    obtain ⟨i, hi⟩ := exec_of_transact h
    exact (exec_worldMove hi).cfg
  | access addr wdata =>
    obtain rfl | ⟨i, hi⟩ := exec_of_hostAccess h
    · rfl
    · exact (exec_worldMove hi).cfg
  | hostStore addr bytes =>
    obtain ⟨-, ⟨-, -, rfl⟩ | ⟨-, rfl⟩⟩ := hostStore_cases h <;> simp
  | hostLoad addr n =>
    obtain ⟨-, _, _, rfl, -⟩ := hostLoad_cases h
    rfl
  | txAnswer a =>
    cases h
    rfl
  | rxAnswer a =>
    cases h
    rfl
  | reset => exact resetBlock_cfg h

/-- Settles O6: neither the engine's small steps nor an outside move, a reset included, writes the
parameters. -/
theorem noStepChangesTheConfiguration : Obligations.NoStepChangesTheConfiguration := by
  intro s t h
  obtain hrun | ⟨m, rest, -, hmove⟩ := step_cases h
  · exact hrun.worldMove.cfg
  · exact (occur_cfg hmove :)

end Sys2Proof.Machine
end

section
/-! Races on host memory (20_memory.md R80): what a MemWrite, a MemRead, a host store and a host load do when
the host has stored, or stores, where the running command reads or writes. -/

namespace Sys2Proof.Machine

open Sys2Proof

/-! ### Writes of the core that race with a host store -/

/-- Byte i of a racing write is the one written, or what stood there where the host has stored. -/
theorem readByte_raceBytes (m : Memory) (raced : List Nat) (draw a : Nat) (s : List Byte) {i : Nat}
    (h : i < s.length) :
    (m.raceBytes raced draw a s).readByte (a + i) = some s[i] ∨
      (a + i ∈ raced ∧ (m.raceBytes raced draw a s).readByte (a + i) = m.readByte (a + i)) := by
  induction s generalizing m draw a i with
  | nil => simp at h
  | cons v s ih =>
    rw [Memory.raceBytes]
    cases i with
    | zero =>
      split
      · rename_i hleft
        have hmem : a ∈ raced := by
          simp only [Bool.and_eq_true, List.contains_iff_mem] at hleft
          exact hleft.1
        exact .inr ⟨hmem, readByte_raceBytes_of_not_mem _ _ _ _ _ (by omega)⟩
      · left
        rw [readByte_raceBytes_of_not_mem _ _ _ _ _ (by omega)]
        simp
    | succ i =>
      have hi : i < s.length := by simpa using h
      rw [show a + (i + 1) = a + 1 + i by omega, List.getElem_cons_succ]
      split
      · exact ih m (draw + 1) (a + 1) hi
      · rw [← readByte_writeByte_of_ne m v (show a ≠ a + 1 + i by omega)]
        exact ih (m.writeByte a v) (draw + 1) (a + 1) hi

/-- Without a racing store a MemWrite stores its bytes. -/
theorem mem_memWrite_of_unraced {s t : State} {a : Nat} {p : List Byte} (h : s.memWrite a p = .ok t)
    (hs : s.Unraced) : t.mem = s.mem.writeBytes a p := by
  obtain ⟨hr, -⟩ := memWrite_cases h
  rw [memWrite_of_unraced hr hs] at h
  cases h
  rfl

/-- Settles O54: byte by byte along the write, in `Memory.raceBytes` and `Memory.writeBytes`. -/
theorem racingBytesHoldEitherValue : Obligations.RacingBytesHoldEitherValue := by
  intro s t a bytes h
  refine ⟨fun i hi => ?_, fun b hb => readByte_memWrite_of_not_mem h hb, mem_memWrite_of_unraced h⟩
  obtain ⟨-, ⟨-, rfl⟩ | rfl⟩ := memWrite_cases h
  · exact .inl (readByte_writeBytes _ _ _ hi)
  · exact readByte_raceBytes _ _ _ _ _ hi

/-! ### Reads of a message region the host has stored into -/

/-- A read in range of a region the host has stored into gives free draws. -/
theorem memRead_of_raced {s : State} {base len a n : Nat} (hr : inRange a n = true)
    (h : s.racedIn base len = true) :
    s.memRead base len a n = .ok (freeBytes s.env.draws n, s.drawn n) := by
  simp [State.memRead, hr, h]

theorem racedIn_iff {s : State} {base len : Nat} :
    s.racedIn base len = true ↔ ∃ x ∈ s.env.raced, base ≤ x ∧ x < base + len := meets_iff

theorem racedIn_eq_false_iff {s : State} {base len : Nat} :
    s.racedIn base len = false ↔ ∀ x ∈ s.env.raced, x < base ∨ base + len ≤ x := by
  rw [← Bool.not_eq_true, racedIn_iff]
  constructor
  · intro h x hx
    by_contra hin
    exact h ⟨x, hx, by omega⟩
  · rintro h ⟨x, hx, hin⟩
    have := h x hx
    omega

/-- ENCODE of a raced payload stages the header with free bytes. -/
theorem runEncode_of_raced {s : State} (hfits : s.hdr.payloadLength.toNat ≤ payloadBudget s.cfg)
    (hr : inRange s.regs.msgBase.toNat s.hdr.payloadLength.toNat = true)
    (h : s.racedIn s.regs.msgBase.toNat s.hdr.payloadLength.toNat = true) :
    runEncode s = .ok (((s.drawn s.hdr.payloadLength.toNat).stage (encodeFrame s.cfg.wireOrder s.hdr
      (freeBytes s.env.draws s.hdr.payloadLength.toNat))).finish .ok) := by
  simp [runEncode, Nat.not_lt.2 hfits, hr, memRead_of_raced hr h]

/-- The next frame of a raced message is its header with free bytes. -/
theorem nextFrame_of_raced {s : State}
    (hr : inRange (s.fctx.base.toNat + s.frag.cursor.toNat) s.nextPlen = true)
    (h : s.racedIn s.fctx.base.toNat s.fctx.len.toNat = true) :
    nextFrame s = .ok ((s.drawn s.nextPlen).pastNext.stage
      (encodeFrame s.cfg.wireOrder s.nextHeader (freeBytes s.env.draws s.nextPlen))) := by
  simp only [nextFrame, memRead_of_raced hr h]
  rfl

/-- The next frame's payload lies in its message. -/
theorem inRange_nextPlen {s : State} (hr : s.fctx.base.toNat + s.fctx.len.toNat ≤ hostSpace)
    (hc : s.frag.cursor.toNat ≤ s.fctx.len.toNat) :
    inRange (s.fctx.base.toNat + s.frag.cursor.toNat) s.nextPlen = true := by
  have hplen : s.nextPlen ≤ s.fctx.len.toNat - s.frag.cursor.toNat := Nat.min_le_right _ _
  exact inRange_iff.2 (.inr (by omega))

/-- ENCODE's move, when its frame can be built. -/
theorem engineMove_encode {s u : State} (eng : s.engine = .run (some .encode))
    (hu : runEncode s = .ok u) : engineMove s = .next u := by
  simp only [engineMove, advanceEngine, eng, runCmd, hu, outcomeOf]

/-- FRAG_NEXT's move, when its frame can be built. -/
theorem engineMove_fragNext {s u : State} (eng : s.engine = .run (some .fragNext))
    (active : s.status.fragActive = true) (hu : nextFrame s = .ok u) :
    engineMove s = .next (u.finish .ok) := by
  simp [engineMove, advanceEngine, eng, runCmd, runFragNext, active, hu, outcomeOf]

/-- SEND's move on one answer that took its frame, when the next frame can be built: it waits again. -/
theorem engineMove_sendNext {s u : State} (eng : s.engine = .waitTx .send)
    (answer : s.env.txAnswers = [.accepted s.txLen.toNat]) (active : s.status.fragActive = true)
    (hu : nextFrame (s.answered (.accepted s.txLen.toNat) []) = .ok u) :
    engineMove s = .next (u.offer .send) := by
  simp [engineMove, advanceEngine, eng, answer, sendWait, sendAccepted, active, hu, outcomeOf]

/-- Settles O55: a raced read is free draws, in the equations of ENCODE, FRAG_NEXT and SEND. -/
theorem racedMessageBytesAreAnyValue : Obligations.RacedMessageBytesAreAnyValue := by
  refine ⟨?read, ?encode, ?nextFrame⟩
  case read =>
    intro s base len a n hn
    have hr : inRange a n = true := inRange_iff.2 (.inr hn)
    exact ⟨fun h => memRead_of_raced hr (racedIn_iff.2 h),
      fun h => memRead_of_not_raced hr (racedIn_eq_false_iff.2 h)⟩
  case encode =>
    intro s eng hfits hrange hraced
    have hrun := runEncode_of_raced hfits (inRange_iff.2 (.inr hrange)) (racedIn_iff.2 hraced)
    exact ⟨_, engineMove_encode eng hrun, rfl, rfl⟩
  case nextFrame =>
    rintro s (eng | ⟨eng, answer⟩) active hrange hcursor hraced
    all_goals
      have hr := inRange_nextPlen hrange hcursor
      have hraced := racedIn_iff.2 hraced
    · exact ⟨_, engineMove_fragNext eng active (nextFrame_of_raced hr hraced), rfl, rfl⟩
    · exact ⟨_, engineMove_sendNext eng answer active (nextFrame_of_raced hr hraced), rfl, rfl⟩

/-! ### Host stores -/

theorem hostStore_hit {s : State} {addr : Word} {bytes : List Byte}
    (hr : inRange addr.toNat bytes.length = true) (eng : s.engine = .waitTx .send)
    (hm : meets (addressesFrom addr.toNat bytes.length) s.fctx.base.toNat s.fctx.len.toNat = true) :
    hostStore addr bytes s = .next (s.hostStored addr.toNat bytes).freeBytesRead := by
  simp [hostStore, hr, eng, hm]

theorem hostStore_miss {s : State} {addr : Word} {bytes : List Byte}
    (hr : inRange addr.toNat bytes.length = true)
    (h : ¬ (s.engine = .waitTx .send ∧
      meets (addressesFrom addr.toNat bytes.length) s.fctx.base.toNat s.fctx.len.toNat = true)) :
    hostStore addr bytes s = .next (s.hostStored addr.toNat bytes) := by
  simp only [hostStore, hr, if_true, if_neg h]

/-- The addresses of a store meet a region. -/
theorem meets_addressesFrom {a n base len : Nat} : meets (addressesFrom a n) base len = true ↔
    ∃ x, a ≤ x ∧ x < a + n ∧ base ≤ x ∧ x < base + len := by
  simp only [meets_iff, mem_addressesFrom, and_assoc]

/-- A store while a command runs adds its addresses to the raced ones. -/
theorem mem_raced_hostStored {s : State} (hb : s.busy = true) (a : Nat) (bytes : List Byte) (x : Nat) :
    x ∈ (s.hostStored a bytes).env.raced ↔
      (a ≤ x ∧ x < a + bytes.length) ∨ x ∈ s.env.raced := by
  simp [hb, mem_addressesFrom]

/-- A store while no command runs changes host memory only. -/
theorem hostStored_of_idle {s : State} (hb : s.busy = false) (a : Nat) (bytes : List Byte) :
    s.hostStored a bytes = { s with mem := s.mem.writeBytes a bytes } := by
  simp [State.hostStored, hb]

theorem busy_of_waitTx {s : State} {op : TxCmd} (eng : s.engine = .waitTx op) : s.busy = true := by
  simp [State.busy, eng]

@[simp] theorem length_freePayloads (stride n draw : Nat) (log : List TxRecord) :
    (freePayloads stride n draw log).length = log.length := by
  rw [← List.length_map (f := TxRecord.fate), map_fate_freePayloads, List.length_map]

/-- A record of the log after a store has freed what SEND has read: SEND's are the newest. -/
theorem getElem?_txLog_freeBytesRead {s : State} {k : Nat} {r : TxRecord}
    (hk : s.env.txLog[k]? = some r) :
    s.freeBytesRead.env.txLog[k]? =
      if k < s.framesOffered then some (freePayload (s.env.draws + k * s.cfg.maxFrame) r)
      else some r := by
  rw [freeBytesRead_env, getElem?_freePayloads, hk, Option.map_some]

/-- A store that frees what SEND has read changes host memory, TXBUF and the surroundings only. -/
theorem freeBytesRead_hostStored_frame (s : State) (a : Nat) (bytes : List Byte) {t : State}
    (ht : (s.hostStored a bytes).freeBytesRead = t) :
    t = { s with
      mem := s.mem.writeBytes a bytes
      txBuf := t.txBuf
      env := { s.env with txLog := t.env.txLog, raced := t.env.raced, draws := t.env.draws } } := by
  subst ht
  unfold State.freeBytesRead
  rfl

/-- TXBUF after a store has freed what SEND has read, by the frames SEND has offered: the last frame's
payload, and a full chunk's if there was a frame before it. -/
theorem readByte_freedTxBuf_of_frames (s : State) (j : Nat) :
    s.freedTxBuf.readByte j =
      if headerSize ≤ j ∧ j < s.txLen.toNat then
        some (freeByte (s.env.draws + (j - headerSize)))
      else if headerSize ≤ j ∧ j < headerSize + chunkStep s.cfg s.fctx.align ∧
          1 < s.framesOffered then
        some (freeByte (s.env.draws + s.cfg.maxFrame + (j - headerSize)))
      else s.txBuf.readByte j := by
  have hlast : (headerSize ≤ j ∧ j < headerSize + (s.txLen.toNat - headerSize)) ↔
      (headerSize ≤ j ∧ j < s.txLen.toNat) := by omega
  have hprior : (headerSize ≤ j ∧ j < headerSize + s.priorPayload) ↔
      (headerSize ≤ j ∧ j < headerSize + chunkStep s.cfg s.fctx.align ∧ 1 < s.framesOffered) := by
    unfold State.priorPayload
    split <;> omega
  rw [readByte_freedTxBuf, if_congr hlast rfl rfl, if_congr hprior rfl rfl]

/-- Settles O56: a store meets the message region of a waiting SEND or not; if it does, the log and TXBUF are
read through `getElem?_freePayloads` and `readByte_freedTxBuf`. -/
theorem aStoreDuringSendFreesTheBytesAlreadyRead :
    Obligations.AStoreDuringSendFreesTheBytesAlreadyRead := by
  intro s addr bytes hrange
  have hr : inRange addr.toNat bytes.length = true := inRange_iff.2 (.inr hrange)
  by_cases hhit : s.engine = .waitTx .send ∧
      meets (addressesFrom addr.toNat bytes.length) s.fctx.base.toNat s.fctx.len.toNat = true
  · obtain ⟨eng, hmeets⟩ := hhit
    have hbusy := busy_of_waitTx eng
    obtain ⟨x, hlo, hhi, hbase, hlen⟩ := meets_addressesFrom.1 hmeets
    refine ⟨_, hostStore_hit hr eng hmeets, ?frame, ?raced, ?idle, ?miss, ?hit⟩
    case frame => exact freeBytesRead_hostStored_frame s _ bytes rfl
    case raced =>
      intro hb y
      simpa using mem_raced_hostStored hb addr.toNat bytes y
    case idle => simp [hbusy]
    case miss =>
      rintro (hne | hout)
      · exact absurd eng hne
      · have := hout x hlo hhi
        omega
    case hit =>
      intro _ _
      refine ⟨by simp, fun k r hk => ?_, fun j => ?_⟩
      · have hrecord := getElem?_txLog_freeBytesRead (s := s.hostStored addr.toNat bytes) hk
        split <;> rename_i hsend
        · exact hrecord.trans (if_pos hsend)
        · exact hrecord.trans (if_neg hsend)
      · rw [freeBytesRead_txBuf]
        exact readByte_freedTxBuf_of_frames (s.hostStored addr.toNat bytes) j
  · refine ⟨_, hostStore_miss hr hhit, rfl, fun hb => mem_raced_hostStored hb _ _,
      fun hb => hostStored_of_idle hb _ _, fun _ => ⟨rfl, rfl, rfl⟩, fun eng hx => ?_⟩
    exact absurd ⟨eng, meets_addressesFrom.2 hx⟩ hhit

/-! ### Host loads -/

/-- What a write under way says of the command running: RX_PROCESS or RX_STEP, its checks passed, with a
candidate whose arrival writes. -/
theorem writeUnderWay_cases {s : State} {w : Nat × List Byte} (h : writeUnderWay s = some w) :
    rxRefusal s = none ∧
      ((s.engine = .run (some .rxProcess) ∧ writeOfArrival s.candidate s = some w) ∨
        ((s.engine = .run (some .rxStep) ∨ s.engine = .waitRx .rxStep) ∧
          ∃ (r : List Byte) (rest : List RxAnswer), s.env.rxQueue = .delivered r :: rest ∧
            writeOfArrival (s.storeCandidate r).candidate s = some w)) := by
  unfold writeUnderWay at h
  split at h
  · rename_i eng
    split at h
    · exact ⟨‹_›, .inl ⟨eng, h⟩⟩
    · cases h
  · split at h
    · rename_i eng
      split at h
      · rename_i r rest hq
        split at h
        · exact ⟨‹_›, .inr ⟨eng, r, rest, hq, h⟩⟩
        · cases h
      · cases h
    · cases h

/-- Only RX_PROCESS and RX_STEP have a write under way. -/
theorem op_of_writeUnderWay {s : State} {w : Nat × List Byte} (h : writeUnderWay s = some w) :
    s.engine.op = some .rxProcess ∨ s.engine.op = some .rxStep := by
  obtain ⟨-, ⟨eng, -⟩ | ⟨eng | eng, -⟩⟩ := writeUnderWay_cases h <;> simp [eng, Engine.op]

/-- An unraced arrival stores just what `writeOfArrival` names. -/
theorem mem_arrival_of_write {cand : List Byte} {s t : State} {w : Nat × List Byte}
    (h : arrival cand s = .ok t) (hs : s.Unraced) (hw : writeOfArrival cand s = some w) :
    t.mem = s.mem.writeBytes w.1 w.2 := by
  unfold writeOfArrival at hw
  split at hw
  · rename_i hd p hv
    split at hw
    · cases hw
    · rename_i hcap
      cases hw
      simp only [arrival, hv, if_neg hcap] at h
      split at h
      · cases h
      · rename_i u hu
        have hmem : u.mem = _ := mem_memWrite_of_unraced hu hs
        split at h <;> cases h <;> exact hmem
  · cases hw

theorem mem_arrivalOfCandidate_of_write {s t : State} {w : Nat × List Byte}
    (h : arrivalOfCandidate s = .ok t) (hs : s.Unraced)
    (hw : writeOfArrival s.candidate s = some w) : t.mem = s.mem.writeBytes w.1 w.2 :=
  (mem_arrival_of_write (w := w) h hs hw :)

theorem eq_ok_of_outcomeOf {x : Except Fault State} {t : State} (h : outcomeOf x = .next t) :
    x = .ok t := by
  cases x <;> cases h
  rfl

/-- The engine's move of an RX_PROCESS or RX_STEP with a write under way makes that write. -/
theorem mem_engineMove_of_write {s u : State} {w : Nat × List Byte} (h : engineMove s = .next u)
    (hs : s.Unraced) (hw : writeUnderWay s = some w) : u.mem = s.mem.writeBytes w.1 w.2 := by
  have h := eq_ok_of_outcomeOf h
  obtain ⟨harmed, ⟨eng, harr⟩ | ⟨eng | eng, r, rest, hq, harr⟩⟩ := writeUnderWay_cases hw
  · simp only [advanceEngine, eng, runCmd, runRxProcess, harmed] at h
    exact (mem_arrivalOfCandidate_of_write (w := w) h hs harr :)
  · simp only [advanceEngine, eng, runCmd, runRxStep, harmed, rxStepWait, hq] at h
    exact (mem_arrivalOfCandidate_of_write (w := w) h hs harr :)
  · simp only [advanceEngine, eng, rxStepWait, hq] at h
    exact (mem_arrivalOfCandidate_of_write (w := w) h hs harr :)

/-! ### Host loads -/

theorem hostLoad_of_inRange {addr : Word} {n : Nat} (hr : inRange addr.toNat n = true) (s : State) :
    ∃ t, hostLoad addr n s = .next t := by
  unfold hostLoad
  rw [if_pos hr]
  split <;> exact ⟨_, rfl⟩

theorem getElem?_hostBytes (m : Memory) (a : Nat) {n i : Nat} (hi : i < n) :
    (m.hostBytes a n)[i]? = some (m.hostAt (a + i)) := by
  simp [Memory.hostBytes, hi]

/-- A byte of a write is found there by the host's reads. -/
theorem hostAt_writeBytes (m : Memory) (a : Nat) (p : List Byte) {x : Nat} (hlo : a ≤ x)
    (hhi : x < a + p.length) : some ((m.writeBytes a p).hostAt x) = p[x - a]? := by
  obtain ⟨i, rfl⟩ := Nat.exists_eq_add_of_le hlo
  have hi : i < p.length := by omega
  rw [Memory.hostAt, readByte_writeBytes m a p hi, Nat.add_sub_cancel_left, Option.getD_some,
    List.getElem?_eq_getElem hi]

/-- A loaded byte is the one in host memory, or that of the write under way. -/
theorem hostLoad_byte {addr : Word} {n : Nat} {s t : State} (h : hostLoad addr n s = .next t) {i : Nat}
    (hi : i < n) :
    t.env.hostData[i]? = some (s.mem.hostAt (addr.toNat + i)) ∨
      ∃ (a : Nat) (p : List Byte), writeUnderWay s = some (a, p) ∧ a ≤ addr.toNat + i ∧
        addr.toNat + i < a + p.length ∧ t.env.hostData[i]? = p[addr.toNat + i - a]? := by
  obtain ⟨-, _, _, rfl, ⟨-, rfl⟩ | ⟨w, hw, rfl⟩⟩ := hostLoad_cases h
  · exact .inl (getElem?_hostBytes _ _ hi)
  · obtain hold | ⟨hlo, hhi, hnew⟩ :=
      racingByte_cases s.mem w (s.env.busyDraws + i) (addr.toNat + i)
    · exact .inl (by simp [hi, hold])
    · refine .inr ⟨w.1, w.2, hw, hlo, hhi, ?_⟩
      have hget : addr.toNat + i - w.1 < w.2.length := by omega
      simp [hi, hnew, hget]

theorem length_hostData_of_hostLoad {addr : Word} {n : Nat} {s t : State}
    (h : hostLoad addr n s = .next t) : t.env.hostData.length = n := by
  obtain ⟨-, _, _, rfl, ⟨-, rfl⟩ | ⟨w, -, rfl⟩⟩ := hostLoad_cases h <;> simp

/-- Without a write under way a load returns the bytes of host memory. -/
theorem hostData_of_no_write {addr : Word} {n : Nat} {s t : State} (h : hostLoad addr n s = .next t)
    (hw : writeUnderWay s = none) : t.env.hostData = s.mem.hostBytes addr.toNat n := by
  obtain ⟨-, _, _, rfl, ⟨-, rfl⟩ | ⟨w, hsome, rfl⟩⟩ := hostLoad_cases h
  · rfl
  · simp [hw] at hsome

/-- A load changes neither the write under way nor host memory, nor what has raced. -/
theorem hostLoad_keeps {addr : Word} {n : Nat} {s t : State} (h : hostLoad addr n s = .next t) :
    writeUnderWay t = writeUnderWay s ∧ t.mem = s.mem ∧ t.env.raced = s.env.raced := by
  obtain ⟨-, _, _, rfl, -⟩ := hostLoad_cases h
  exact ⟨rfl, rfl, rfl⟩

/-- Settles O57: a loaded byte is the old one or that of the write under way, which the engine's move
makes. -/
theorem racingLoadsReturnTheOldOrTheNewByte : Obligations.RacingLoadsReturnTheOldOrTheNewByte := by
  intro s addr n hrange
  obtain ⟨t, h⟩ := hostLoad_of_inRange (inRange_iff.2 (.inr hrange)) s
  obtain ⟨-, data, d, ht, -⟩ := hostLoad_cases h
  refine ⟨t, d, h, length_hostData_of_hostLoad h, by rw [ht], ?noWrite,
    fun i => hostLoad_byte h, ?moved⟩
  case noWrite =>
    intro hp hs
    refine hostData_of_no_write h (Option.eq_none_iff_forall_ne_some.2 fun w hw => ?_)
    exact (op_of_writeUnderWay hw).elim hp hs
  case moved =>
    intro u hs hu i hi
    refine (hostLoad_byte h hi).imp_right ?_
    rintro ⟨a, p, hw, hlo, hhi, hbyte⟩
    obtain ⟨hwrite, hmem, hraced⟩ := hostLoad_keeps h
    have hnew : u.mem = s.mem.writeBytes a p := by
      rw [← hmem]
      exact mem_engineMove_of_write hu (hraced.trans hs) (hwrite.trans hw)
    rw [hbyte, hnew, hostAt_writeBytes _ _ _ hlo hhi]

end Sys2Proof.Machine
end

section
/-! The statements of 30_encoding.md: packed integers, command words and the statements of a host program. -/

namespace Sys2Proof.Machine

open Sys2Proof

/-! ### Command words -/

/-- What the decoder makes of a 32-bit row of the opcode table is what CMD makes of the word. -/
theorem decodeTableWord_word (w : Word) :
    decodeTableWord 32 w.toNat = (commandOf w).map Instr.ofCmd := by
  have hword : BitVec.ofNat 32 (leNat (leBytes 4 w.toNat)) = w := by
    rw [leNat_leBytes_of_lt w.isLt, BitVec.ofNat_toNat, BitVec.setWidth_eq]
  have hbytes : tableBytes 32 w.toNat = leBytes 4 w.toNat := rfl
  rw [decodeTableWord, hbytes, decode, if_pos (length_leBytes 4 _), hword]
  cases commandOf w <;> rfl

theorem decodeTableWord_command (c : Cmd) :
    decodeTableWord 32 c.word.toNat = some (Instr.ofCmd c) := by
  rw [decodeTableWord_word, commandOf_word, Option.map_some]

/-- Settles O7: the ten words are the commands' words, and a word outside the map selects no command. -/
theorem tableWordsDecodeToTheirInstructions : Obligations.TableWordsDecodeToTheirInstructions := by
  have illegal {w : Word} (h : commandOf w = none) : decodeTableWord 32 w.toNat = none := by
    rw [decodeTableWord_word, h, Option.map_none]
  exact ⟨decodeTableWord_command .encode, decodeTableWord_command .decode,
    decodeTableWord_command .fragStart, decodeTableWord_command .fragNext,
    decodeTableWord_command .xmit, decodeTableWord_command .send,
    decodeTableWord_command .rxInit, decodeTableWord_command .recv,
    decodeTableWord_command .rxProcess, decodeTableWord_command .rxStep, by decide, by decide,
    illegal (w := 0x00000003) (by decide), illegal (w := 0x00000110) (by decide)⟩

/-- Settles O13: a word that is none of the ten issues no command, so the engine runs `runIllegal`. -/
theorem illegalCommandWordsRaiseIllegalCommand :
    Obligations.IllegalCommandWordsRaiseIllegalCommand := by
  intro s w hw
  have hexec : exec (.regWrite 0 w) s = execIllegal s := by
    rw [exec_regWrite_zero, writeCmd, commandOf_eq_none_iff.2 hw]
  rw [hexec]
  refine ⟨?ready, ?overlapped, ?resumed⟩
  case ready => exact fun hr => issue_of_ready hr none runIllegal
  case overlapped =>
    exact fun idle ho => ⟨s.begin none, issue_of_overlapped idle ho none runIllegal, rfl, rfl⟩
  case resumed => exact fun hr => (issue_of_ready hr none runIllegal).symm

/-! ### Packed integers -/

/-- The n low bytes of a word, least significant first, are its bit fields (30_encoding.md R91). -/
theorem leBytes_toNat {m : Nat} (n : Nat) (v : BitVec m) :
    leBytes n v.toNat = (List.range n).map (fun i => v.extractLsb' (8 * i) 8) := by
  apply List.ext_getElem (by simp)
  intro i hi hi'
  have hlt : i < n := by simpa using hi
  apply Option.some.inj
  rw [← List.getElem?_eq_getElem, getElem?_leBytes hlt, List.getElem_map, List.getElem_range]
  congr 1
  apply BitVec.eq_of_toNat_eq
  rw [BitVec.extractLsb'_toNat, BitVec.toNat_ofNat, Nat.shiftRight_eq_div_pow, pow_mul]
  rfl

theorem unpackNat_packNat (o : WireOrder) {n v : Nat} (h : v < 256 ^ n) :
    unpackNat o (packNat o n v) = v := by
  cases o with
  | le => exact leNat_leBytes_of_lt h
  | be => simpa [unpackNat, packNat] using leNat_leBytes_of_lt h

theorem unpack16_pack16 (o : WireOrder) (v : Half) : unpack16 o (pack16 o v) = v := by
  rw [unpack16, pack16, unpackNat_packNat o v.isLt, BitVec.ofNat_toNat, BitVec.setWidth_eq]

theorem unpack32_pack32 (o : WireOrder) (v : Word) : unpack32 o (pack32 o v) = v := by
  rw [unpack32, pack32, unpackNat_packNat o v.isLt, BitVec.ofNat_toNat, BitVec.setWidth_eq]

/-- Settles O10: LE lists the bit fields of `leBytes_toNat`, BE their reverse. -/
theorem packedIntegersUnpack : Obligations.PackedIntegersUnpack := by
  refine ⟨rfl, ?le16, ?be16, ?le32, ?be32, unpack16_pack16, unpack32_pack32⟩
  case le16 => exact leBytes_toNat 2
  case be16 => exact fun v => congrArg List.reverse (leBytes_toNat 2 v)
  case le32 => exact leBytes_toNat 4
  case be32 => exact fun v => congrArg List.reverse (leBytes_toNat 4 v)

/-! ### Words packed from a byte list -/

theorem leNat_append_zeros (s : List Byte) (n : Nat) :
    leNat (s ++ List.replicate n 0) = leNat s := by
  induction s with
  | nil =>
    induction n with
    | zero => rfl
    | succ n ih => simpa [List.replicate_succ, leNat] using ih
  | cons b s ih => rw [List.cons_append, leNat, leNat, ih]

/-- Word k of a byte list holds its bytes 4k .. 4k + 3, the last word padded with 0x00. -/
theorem leBytes_packedWord (s : List Byte) (k : Nat) :
    leBytes 4 (packedWord s k).toNat = slice s (4 * k) (4 * k + 4) ++
      List.replicate (4 - (slice s (4 * k) (4 * k + 4)).length) 0 := by
  generalize hp : slice s (4 * k) (4 * k + 4) = p
  have hlen : p.length ≤ 4 := by
    rw [← hp, slice, Nat.add_sub_cancel_left]
    exact List.length_take_le 4 _
  have hpad : (p ++ List.replicate (4 - p.length) (0 : Byte)).length = 4 := by
    rw [List.length_append, List.length_replicate]
    omega
  have h := leBytes_leNat (p ++ List.replicate (4 - p.length) 0)
  have hlt := leNat_lt (p ++ List.replicate (4 - p.length) 0)
  rw [hpad, leNat_append_zeros] at h hlt
  rw [packedWord, hp, BitVec.toNat_ofNat, Nat.mod_eq_of_lt (by exact hlt), h]

theorem extractLsb'_packedWord {s : List Byte} {k i : Nat} (hi : i < 4) (h : 4 * k + i < s.length) :
    (packedWord s k).extractLsb' (8 * i) 8 = s[4 * k + i] := by
  apply Option.some.inj
  rw [← getElem?_leBytes_toNat hi, leBytes_packedWord, slice, Nat.add_sub_cancel_left,
    List.getElem?_append_left (by rw [List.length_take, List.length_drop]; omega),
    List.getElem?_take_of_lt hi, List.getElem?_drop, List.getElem?_eq_getElem h]

/-! ### SETADDR -/

/-- An address after words 0 .. n - 1 of the address b have been written to it. -/
def Addr.setWordsOf (a b : Addr) (n : Nat) : Addr :=
  (List.range n).foldl (fun c j => c.setWord j (b.word j)) a

theorem Addr.setWordsOf_succ (a b : Addr) (n : Nat) :
    a.setWordsOf b (n + 1) = (a.setWordsOf b n).setWord n (b.word n) := by
  simp [Addr.setWordsOf, List.range_succ]

/-- Writing word j of b to an address that agrees with b below it makes them agree through it. -/
theorem Addr.take_setWord_word {a b : Addr} {j : Nat}
    (h : a.bytes.take (4 * j) = b.bytes.take (4 * j)) :
    (a.setWord j (b.word j)).bytes.take (4 * j + 4) = b.bytes.take (4 * j + 4) := by
  have hword : leBytes 4 (b.word j).toNat = _ := leBytes_packedWord b.bytes j
  have hpre : b.bytes.take (4 * j) ++ slice b.bytes (4 * j) (4 * j + 4)
      = b.bytes.take (4 * j + 4) := by
    rw [slice, Nat.add_sub_cancel_left, List.take_add]
  have hlen : (b.bytes.take (4 * j + 4)).length = min (4 * j + 4) addrBytes := by
    rw [List.length_take, b.length_eq]
  simp only [Addr.setWord, Addr.ofList, hword, h, ← List.append_assoc, hpre]
  rw [List.take_take]
  simp only [List.append_assoc]
  exact List.take_left' hlen

theorem Addr.take_setWordsOf (a b : Addr) (n : Nat) :
    (a.setWordsOf b n).bytes.take (4 * n) = b.bytes.take (4 * n) := by
  induction n with
  | zero => rfl
  | succ n ih =>
    rw [Addr.setWordsOf_succ]
    exact Addr.take_setWord_word ih

theorem Addr.eq_of_bytes_eq {a b : Addr} (h : a.bytes = b.bytes) : a = b := by
  cases a
  cases b
  cases h
  rfl

/-- Five words are a whole address (10_state.md R22). -/
theorem Addr.setWordsOf_five (a b : Addr) : a.setWordsOf b 5 = b := by
  have h := Addr.take_setWordsOf a b 5
  have hlen (c : Addr) : c.bytes.length ≤ 4 * 5 := by rw [c.length_eq]; decide
  rw [List.take_of_length_le (hlen _), List.take_of_length_le (hlen _)] at h
  exact Addr.eq_of_bytes_eq h

/-! ### Lists of register writes -/

/-- Register writes of targets other than CMD, made while BUSY = 0, take effect one after another. -/
theorem execAll_regWrites {index : Nat → BitVec 12} {data : Nat → Word} {target : Nat → Target}
    {js : List Nat} (ht : ∀ j ∈ js, targetOf (index j) = target j ∧ target j ≠ .cmd)
    {s : State} (idle : s.engine = .idle) :
    execAll (js.map (fun j => .regWrite (index j) (data j))) s =
      .next (js.foldl (fun t j => t.writeTarget (data j) (target j)) s) := by
  induction js generalizing s with
  | nil => rfl
  | cons j js ih =>
    obtain ⟨hj, hjs⟩ := List.forall_mem_cons.1 ht
    obtain ⟨-, heng, -⟩ := writeTarget_frame s (data j) (target j)
    simp only [List.map_cons, execAll, regWrite_of_idle idle hj.1 hj.2]
    exact ih hjs (heng.trans idle)

theorem execAll_append {is js : List Instr} {s t : State} (h : execAll is s = .next t) :
    execAll (is ++ js) s = execAll js t := by
  induction is generalizing s with
  | nil =>
    cases h
    rfl
  | cons i is ih =>
    simp only [List.cons_append, execAll] at h ⊢
    cases hi : exec i s with
    | next u =>
      rw [hi] at h
      exact ih h
    | fault f => rw [hi] at h; cases h
    | refused r => rw [hi] at h; cases h

/-- SETADDR of an address group replaces its address by the padded text (30_encoding.md R106). `put` is the
state with an address in the place the group's writes go to. -/
theorem execAll_setAddr {base : BitVec 12} {group : Nat → Target} {put : Addr → State}
    (hg : ∀ j ∈ List.range 5, targetOf (base + BitVec.ofNat 12 j) = group j ∧ group j ≠ .cmd)
    (hput : ∀ c j w, (put c).writeTarget w (group j) = put (c.setWord j w))
    {a : Addr} (idle : (put a).engine = .idle) (text : List Byte) :
    execAll (Stmt.setAddr base text).expand (put a) = .next (put (Addr.ofList text)) := by
  have hfold (b : Addr) : (List.range 5).foldl (fun t j => t.writeTarget (b.word j) (group j)) (put a)
      = put (a.setWordsOf b 5) :=
    List.foldl_hom put (fun c j => hput c j (b.word j))
  rw [Stmt.expand, execAll_regWrites hg idle, hfold, Addr.setWordsOf_five]

/-! ### WRRX -/

/-- RXBUF after window words 0 .. n - 1 have been written with the words of a byte list. -/
def writePackedWords (cfg : Config) (buf : Memory) (bytes : List Byte) (n : Nat) : Memory :=
  (List.range n).foldl (fun m k => writeWindow cfg m k (packedWord bytes k)) buf

theorem writePackedWords_succ (cfg : Config) (buf : Memory) (bytes : List Byte) (n : Nat) :
    writePackedWords cfg buf bytes (n + 1) =
      writeWindow cfg (writePackedWords cfg buf bytes n) n (packedWord bytes n) := by
  simp [writePackedWords, List.range_succ]

theorem foldl_writeTarget_rxWindow (bytes : List Byte) (n : Nat) (s : State) :
    (List.range n).foldl (fun t k => t.writeTarget (packedWord bytes k) (.rxWindow k)) s =
      { s with rxBuf := writePackedWords s.cfg s.rxBuf bytes n } := by
  induction n with
  | zero => rfl
  | succ n ih =>
    rw [List.range_succ, List.foldl_append, ih, writePackedWords_succ]
    rfl

/-- n window words hold the list's bytes below 4n, and leave RXBUF alone from there on. -/
theorem readByte_writePackedWords {cfg : Config} {bytes : List Byte}
    (hfits : bytes.length ≤ cfg.maxFrame) (buf : Memory) (n : Nat) :
    (∀ i (h : i < bytes.length), i < 4 * n →
      (writePackedWords cfg buf bytes n).readByte i = some bytes[i]) ∧
    (∀ j, 4 * n ≤ j → (writePackedWords cfg buf bytes n).readByte j = buf.readByte j) := by
  induction n with
  | zero => exact ⟨fun i _ hi => absurd hi (Nat.not_lt_zero i), fun _ _ => rfl⟩
  | succ n ih =>
    obtain ⟨hbelow, habove⟩ := ih
    obtain ⟨hin, hout⟩ :=
      readByte_writeWindow cfg (writePackedWords cfg buf bytes n) n (packedWord bytes n)
    rw [writePackedWords_succ]
    constructor
    · intro i h hi
      by_cases hlt : i < 4 * n
      · rw [hout i (.inl hlt), hbelow i h hlt]
      · obtain ⟨d, rfl⟩ := Nat.exists_eq_add_of_le (Nat.not_lt.1 hlt)
        have hd : d < 4 := by omega
        rw [hin d hd (by omega), extractLsb'_packedWord hd h]
    · intro j hj
      rw [hout j (by omega), habove j (by omega)]

/-- The window writes of WRRX put the words of its byte list into RXBUF. -/
theorem execAll_rxWindowWrites (bytes : List Byte) {n : Nat} (hn : n ≤ 0x400) {s : State}
    (idle : s.engine = .idle) :
    execAll ((List.range n).map (fun k =>
      .regWrite (rxWindowIndex + BitVec.ofNat 12 k) (packedWord bytes k))) s =
      .next { s with rxBuf := writePackedWords s.cfg s.rxBuf bytes n } := by
  have ht : ∀ k ∈ List.range n, targetOf (rxWindowIndex + BitVec.ofNat 12 k) = .rxWindow k ∧
      Target.rxWindow k ≠ .cmd := by
    intro k hk
    have hindex : rxWindowIndex + BitVec.ofNat 12 k = BitVec.ofNat 12 (0x800 + k) :=
      (BitVec.ofNat_add 0x800 k).symm
    rw [hindex]
    exact ⟨targetOf_rxWindow (Nat.lt_of_lt_of_le (List.mem_range.1 hk) hn), nofun⟩
  rw [execAll_regWrites ht idle, foldl_writeTarget_rxWindow]

/-- WRRX of a byte list that fits: its words are in RXBUF and its length in RXLEN. -/
theorem execAll_wrrx {s : State} (idle : s.engine = .idle) {bytes : List Byte}
    (hfits : bytes.length ≤ s.cfg.maxFrame) :
    execAll (Stmt.wrrx bytes).expand s = .next { s with
      rxBuf := writePackedWords s.cfg s.rxBuf bytes ((bytes.length + 3) / 4)
      rxLen := BitVec.ofNat 32 bytes.length } := by
  have hwindow : s.cfg.maxFrame ≤ 4096 := s.cfg.frame_upper
  have hlen : (BitVec.ofNat 32 bytes.length).toNat ≤ s.cfg.maxFrame := by
    rw [BitVec.toNat_ofNat]
    omega
  rw [Stmt.expand, execAll_append (execAll_rxWindowWrites bytes (by omega) idle)]
  obtain ⟨hstored, -⟩ := rxlenWritesAreBounded
    { s with rxBuf := writePackedWords s.cfg s.rxBuf bytes ((bytes.length + 3) / 4) }
    (BitVec.ofNat 32 bytes.length) idle
  simp only [execAll, rxLenIndex, hstored hlen]

/-- Settles O26: SETADDR writes the five words that are the whole address, and WRRX the window words that
cover its byte list, then RXLEN. -/
theorem setaddrAndWrrxHandOverTheirBytes : Obligations.SetaddrAndWrrxHandOverTheirBytes := by
  constructor
  · intro s text idle
    refine ⟨?localAddr, ?remoteAddr, ?hdrDest, ?hdrSrc⟩
    case localAddr =>
      exact execAll_setAddr (group := .localAddr) (put := fun c => { s with regs.localAddr := c })
        (by decide) (fun _ _ _ => rfl) idle text
    case remoteAddr =>
      exact execAll_setAddr (group := .remoteAddr) (put := fun c => { s with regs.remoteAddr := c })
        (by decide) (fun _ _ _ => rfl) idle text
    case hdrDest =>
      exact execAll_setAddr (group := .hdrDest) (put := fun c => { s with hdr.dest := c })
        (by decide) (fun _ _ _ => rfl) idle text
    case hdrSrc =>
      exact execAll_setAddr (group := .hdrSrc) (put := fun c => { s with hdr.src := c })
        (by decide) (fun _ _ _ => rfl) idle text
  · intro s bytes idle hfits
    obtain ⟨hin, hout⟩ := readByte_writePackedWords hfits s.rxBuf ((bytes.length + 3) / 4)
    refine ⟨_, execAll_wrrx idle hfits, rfl, ?stored, ?frame⟩
    case stored => exact fun i h => hin i h (by omega)
    case frame => exact fun j hj => hout j (by omega)

end Sys2Proof.Machine
end

section
/-! The statements of 40_codec.md: the header layout, the laws of frames, and ENCODE and DECODE. -/

namespace Sys2Proof.Machine

open Sys2Proof

/-! ### Slices of a byte sequence -/

theorem slice_zero (s : List Byte) (n : Nat) : slice s 0 n = s.take n := rfl

/-- A slice of what follows a known part. -/
theorem slice_append_of_length_le {a : List Byte} {lo : Nat} (h : a.length ≤ lo) (b : List Byte)
    (hi : Nat) : slice (a ++ b) lo hi = slice b (lo - a.length) (hi - a.length) := by
  rw [slice, List.drop_append, List.drop_of_length_le h, List.nil_append, slice,
    Nat.sub_sub_sub_cancel_right h]

/-- The slice that is the known part itself. -/
theorem slice_append_of_length_eq {a : List Byte} {hi : Nat} (h : a.length = hi) (b : List Byte) :
    slice (a ++ b) 0 hi = a := List.take_left' h

theorem length_slice {s : List Byte} {lo hi : Nat} (h : hi ≤ s.length) :
    (slice s lo hi).length = hi - lo := by
  rw [slice, List.length_take, List.length_drop]
  omega

/-- Slices that meet are one slice. -/
theorem slice_append_slice {lo mid hi : Nat} (h₁ : lo ≤ mid) (h₂ : mid ≤ hi) (s : List Byte) :
    slice s lo mid ++ slice s mid hi = slice s lo hi := by
  obtain ⟨i, rfl⟩ := Nat.exists_eq_add_of_le h₁
  obtain ⟨j, rfl⟩ := Nat.exists_eq_add_of_le h₂
  rw [slice, slice, slice, Nat.add_sub_cancel_left, Nat.add_sub_cancel_left, Nat.add_assoc,
    Nat.add_sub_cancel_left, List.take_add, List.drop_drop]

/-- A slice does not see what lies past its end. -/
theorem slice_take {hi n : Nat} (h : hi ≤ n) (s : List Byte) (lo : Nat) :
    slice (s.take n) lo hi = slice s lo hi := by
  rw [slice, slice, List.drop_take, List.take_take, Nat.min_eq_left (Nat.sub_le_sub_right h lo)]

/-- A slice of one byte. -/
theorem slice_succ {s : List Byte} {i : Nat} (h : i < s.length) :
    slice s i (i + 1) = [s.getD i 0] := by
  rw [slice, Nat.add_sub_cancel_left, List.drop_eq_getElem_cons h, List.getD_eq_getElem _ _ h]
  rfl

/-! ### The header's fields -/

@[simp] theorem Addr.length_bytes (a : Addr) : a.bytes.length = 18 := a.length_eq

/-- Eighteen bytes are the address they make. -/
theorem Addr.bytes_ofList {s : List Byte} (h : s.length = 18) : (Addr.ofList s).bytes = s :=
  List.take_left' h

@[simp] theorem Addr.ofList_bytes (a : Addr) : Addr.ofList a.bytes = a :=
  Addr.eq_of_bytes_eq (Addr.bytes_ofList a.length_bytes)

theorem packNat_unpackNat (o : WireOrder) {s : List Byte} {n : Nat} (h : s.length = n) :
    packNat o n (unpackNat o s) = s := by
  subst h
  cases o with
  | le => exact leBytes_leNat s
  | be =>
    have h := leBytes_leNat s.reverse
    rw [List.length_reverse] at h
    rw [packNat, unpackNat, h, List.reverse_reverse]

theorem unpackNat_lt (o : WireOrder) {s : List Byte} {n : Nat} (h : s.length = n) :
    unpackNat o s < 256 ^ n := by
  subst h
  cases o with
  | le => exact leNat_lt s
  | be => simpa [unpackNat] using leNat_lt s.reverse

theorem pack16_unpack16 (o : WireOrder) {s : List Byte} (h : s.length = 2) :
    pack16 o (unpack16 o s) = s := by
  have hlt : unpackNat o s < 2 ^ 16 := unpackNat_lt o h
  rw [pack16, unpack16, BitVec.toNat_ofNat, Nat.mod_eq_of_lt hlt, packNat_unpackNat o h]

theorem pack32_unpack32 (o : WireOrder) {s : List Byte} (h : s.length = 4) :
    pack32 o (unpack32 o s) = s := by
  have hlt : unpackNat o s < 2 ^ 32 := unpackNat_lt o h
  rw [pack32, unpack32, BitVec.toNat_ofNat, Nat.mod_eq_of_lt hlt, packNat_unpackNat o h]

@[simp] theorem length_pack16 (o : WireOrder) (v : Half) : (pack16 o v).length = 2 :=
  length_packNat o 2 _

@[simp] theorem length_pack32 (o : WireOrder) (v : Word) : (pack32 o v).length = 4 :=
  length_packNat o 4 _

/-- unpack_header reads the first 51 bytes only. -/
theorem unpackHeader_take (o : WireOrder) (s : List Byte) :
    unpackHeader o (s.take 51) = unpackHeader o s := by
  simp [unpackHeader, slice_take]

/-- Where pack_header lays each field (30_encoding.md R90). -/
theorem slices_packHeader (o : WireOrder) (h : Header) (rest : List Byte) :
    slice (packHeader o h ++ rest) 0 18 = h.dest.bytes ∧
    slice (packHeader o h ++ rest) 18 36 = h.src.bytes ∧
    slice (packHeader o h ++ rest) 36 37 = [h.type] ∧
    slice (packHeader o h ++ rest) 37 39 = pack16 o h.protocolId ∧
    slice (packHeader o h ++ rest) 39 43 = pack32 o h.payloadLength ∧
    slice (packHeader o h ++ rest) 43 45 = pack16 o h.fragmentId ∧
    slice (packHeader o h ++ rest) 45 47 = pack16 o h.offsetField ∧
    slice (packHeader o h ++ rest) 47 51 = pack32 o h.checksum := by
  simp only [packHeader, List.append_assoc]
  refine ⟨?_, ?_, ?_, ?_, ?_, ?_, ?_, ?_⟩
  all_goals
    simp only [slice_append_of_length_le, slice_append_of_length_eq, Addr.length_bytes,
      length_pack16, length_pack32, List.length_singleton, Nat.reduceLeDiff, Nat.reduceSub]

/-- unpack_header finds each field where pack_header lays it. -/
theorem unpackHeader_packHeader (o : WireOrder) (h : Header) (rest : List Byte) :
    unpackHeader o (packHeader o h ++ rest) = h := by
  obtain ⟨hdest, hsrc, htype, hproto, hplen, hfragid, hoffset, hcksum⟩ := slices_packHeader o h rest
  rw [slice_succ (by simp [headerSize]; omega), List.singleton_inj] at htype
  rw [unpackHeader, hdest, hsrc, htype, hproto, hplen, hfragid, hoffset, hcksum]
  simp only [Addr.ofList_bytes, unpack16_pack16, unpack32_pack32]

/-- pack_header lays each field where unpack_header found it. -/
theorem packHeader_unpackHeader (o : WireOrder) {s : List Byte} (h : 51 ≤ s.length) :
    packHeader o (unpackHeader o s) = s.take 51 := by
  have hlen (lo hi : Nat) (hhi : hi ≤ 51) : (slice s lo hi).length = hi - lo :=
    length_slice (Nat.le_trans hhi h)
  have htype : [s.getD 36 0] = slice s 36 37 := (slice_succ (by omega)).symm
  calc packHeader o (unpackHeader o s)
      = slice s 0 18 ++ slice s 18 36 ++ slice s 36 37 ++ slice s 37 39 ++ slice s 39 43
          ++ slice s 43 45 ++ slice s 45 47 ++ slice s 47 51 := by
        simp only [packHeader, unpackHeader, htype, Addr.bytes_ofList, pack16_unpack16,
          pack32_unpack32, hlen, Nat.reduceLeDiff, Nat.reduceSub]
    _ = slice s 0 51 := by simp only [slice_append_slice, Nat.reduceLeDiff]
    _ = s.take 51 := slice_zero s 51

/-- Settles O11: each field is a slice of its own, eighteen bytes being the address they make, and
pack_header lays each field in the slice unpack_header takes it from. -/
theorem unpackedHeaderOfAPackedHeaderIsTheHeader :
    Obligations.UnpackedHeaderOfAPackedHeaderIsTheHeader := by
  refine ⟨?unpack, ?pack⟩
  case unpack =>
    intro o s hs
    have hdest : (slice s 0 18).length = 18 := length_slice (by omega)
    have hsrc : (slice s 18 36).length = 18 := length_slice (by omega)
    have htype : some (s.getD 36 0) = s[36]? := by
      rw [List.getD_eq_getElem _ _ (by omega), List.getElem?_eq_getElem]
    exact ⟨Addr.bytes_ofList hdest, Addr.bytes_ofList hsrc, htype, rfl, rfl, rfl, rfl, rfl,
      unpackHeader_take o s⟩
  case pack => exact fun o h rest => ⟨length_packHeader o h, unpackHeader_packHeader o h rest⟩

/-! ### Frames -/

theorem payloadLength_unpackHeader (o : WireOrder) (s : List Byte) :
    (unpackHeader o s).payloadLength = unpack32 o (slice s 39 43) := rfl

/-- Which sequences decode gives MALFORMED for (40_codec.md R123). -/
theorem decodeFrame_eq_none_iff {o : WireOrder} {s : List Byte} :
    decodeFrame o s = none ↔
      s.length < headerSize + (unpackHeader o s).payloadLength.toNat := by
  unfold decodeFrame
  split_ifs
  · exact iff_of_true rfl (by omega)
  · exact iff_of_true rfl (by omega)
  · exact iff_of_false nofun (by omega)

/-- What decode finds in a sequence long enough for its header and the payload that declares. -/
theorem decodeFrame_eq_some_iff {o : WireOrder} {s : List Byte} {h : Header} {p : List Byte} :
    decodeFrame o s = some (h, p) ↔
      headerSize + h.payloadLength.toNat ≤ s.length ∧ unpackHeader o s = h ∧
        slice s headerSize (headerSize + h.payloadLength.toNat) = p := by
  unfold decodeFrame
  constructor
  · intro hd
    split_ifs at hd
    cases hd
    exact ⟨by omega, rfl, rfl⟩
  · rintro ⟨hlen, rfl, rfl⟩
    rw [if_neg (by omega), if_neg (by omega)]

@[simp] theorem length_encodeFrame (o : WireOrder) (h : Header) (p : List Byte) :
    (encodeFrame o h p).length = 51 + p.length := by
  rw [encodeFrame, List.length_append, length_packHeader, headerSize]

/-- A frame decodes to its header and payload, whatever follows it. -/
theorem decodeFrame_encodeFrame (o : WireOrder) {h : Header} {p : List Byte}
    (hp : p.length = h.payloadLength.toNat) (extra : List Byte) :
    decodeFrame o (encodeFrame o h p ++ extra) = some (h, p) := by
  rw [encodeFrame, List.append_assoc]
  have hlen := length_packHeader o h
  refine decodeFrame_eq_some_iff.2 ⟨?fits, unpackHeader_packHeader o h _, ?payload⟩
  case fits =>
    rw [List.length_append, List.length_append, hlen]
    omega
  case payload =>
    rw [slice_append_of_length_le hlen.le, hlen, Nat.sub_self, Nat.add_sub_cancel_left,
      slice_append_of_length_eq hp]

/-- What decodes is the frame of its header and payload, as far as that reaches. -/
theorem encodeFrame_of_decodeFrame {o : WireOrder} {s : List Byte} {h : Header} {p : List Byte}
    (hd : decodeFrame o s = some (h, p)) :
    encodeFrame o h p = s.take (51 + h.payloadLength.toNat) := by
  obtain ⟨hlen, hh, hp⟩ := decodeFrame_eq_some_iff.1 hd
  rw [encodeFrame, ← hp, ← hh, packHeader_unpackHeader o (Nat.le_of_add_right_le hlen), slice,
    Nat.add_sub_cancel_left, List.take_add]
  rfl

/-- Settles O12: decode is read off its two equivalences, and its header and payload are the slices
that encode joins. -/
theorem encodeAndDecodeOfFramesAreInverse : Obligations.EncodeAndDecodeOfFramesAreInverse := by
  refine ⟨?encoded, ?decoded, ?malformed⟩
  case encoded =>
    intro o h p extra hp
    refine ⟨?_, ?_, decodeFrame_encodeFrame o hp extra⟩
    · rw [length_encodeFrame, hp]
    · simpa using decodeFrame_encodeFrame o hp []
  case decoded => exact fun o s h p hd => ⟨length_of_decodeFrame hd, encodeFrame_of_decodeFrame hd⟩
  case malformed =>
    intro o s
    rw [decodeFrame_eq_none_iff, payloadLength_unpackHeader, headerSize]
    omega

/-! ### ENCODE -/

/-- ENCODE of a payload that fits no frame. -/
theorem runEncode_of_tooLong {s : State} (h : payloadBudget s.cfg < s.hdr.payloadLength.toNat) :
    runEncode s = .ok (s.raise .frameTooLong) := if_pos h

/-- ENCODE of a payload that fits, in a region that wraps. -/
theorem runEncode_of_wrapped {s : State} (hfits : s.hdr.payloadLength.toNat ≤ payloadBudget s.cfg)
    (hr : inRange s.regs.msgBase.toNat s.hdr.payloadLength.toNat = false) :
    runEncode s = .ok (s.raise .rangeError) := by
  simp [runEncode, Nat.not_lt.2 hfits, hr]

/-- ENCODE of a payload that no host store races with stages its frame. -/
theorem runEncode_of_not_raced {s : State} (hfits : s.hdr.payloadLength.toNat ≤ payloadBudget s.cfg)
    (hr : inRange s.regs.msgBase.toNat s.hdr.payloadLength.toNat = true)
    (h : s.racedIn s.regs.msgBase.toNat s.hdr.payloadLength.toNat = false) :
    runEncode s = .ok ((s.stage (encodeFrame s.cfg.wireOrder s.hdr
      (s.mem.hostBytes s.regs.msgBase.toNat s.hdr.payloadLength.toNat))).finish .ok) := by
  simp [runEncode, Nat.not_lt.2 hfits, hr, memRead_of_not_raced hr h]

/-- A ready block that is given a command makes the engine's move from RUN (43_host_access.md R203). -/
theorem exec_of_ready {i : Instr} (hi : writesCmd i = true) {s : State} (ready : s.Ready) :
    exec i s = engineMove (s.begin (commandIssued i)) := by
  obtain ⟨idle, hnext⟩ := ready
  simp [exec_of_writesCmd hi, busy_eq_false_iff.2 idle, hnext]

/-- Settles O27: a ready block runs ENCODE's body, with no store raced yet, and the body's three outcomes
are its three equations. -/
theorem encodePacksHeaderAndPayloadIntoTxbuf : Obligations.EncodePacksHeaderAndPayloadIntoTxbuf := by
  intro s ready
  have hexec {t : State} (hrun : runEncode (s.begin (some .encode)) = .ok t) :
      exec .encode s = .next t := by
    rw [exec_of_ready rfl ready]
    exact engineMove_encode rfl hrun
  refine ⟨?tooLong, ?wrapped, ?staged⟩
  case tooLong => exact fun h => hexec (runEncode_of_tooLong h)
  case wrapped =>
    intro hfits hwrap
    refine hexec (runEncode_of_wrapped hfits ?_)
    rw [← Bool.not_eq_true, inRange_iff, begin_regs, begin_hdr, hostSpace]
    have := s.regs.msgBase.isLt
    omega
  case staged =>
    intro hfits hrange
    have hunraced : (s.begin (some .encode)).Unraced := rfl
    have hlen := length_encodeFrame s.cfg.wireOrder s.hdr
      (s.mem.hostBytes s.regs.msgBase.toNat s.hdr.payloadLength.toNat)
    rw [length_hostBytes] at hlen
    rw [← hlen]
    exact hexec (runEncode_of_not_raced hfits (inRange_iff.2 (.inr hrange))
      (racedIn_of_unraced hunraced _ _))

/-! ### DECODE -/

/-- The candidate that DECODE reads shows every byte written since reset. -/
theorem shows_candidate (s : State) : s.Shows s.candidate := by
  refine ⟨length_bufferBytes _ _ _ _ _, fun i b hi hmax hb => ?_⟩
  rw [State.candidate, bufferBytes, List.getElem?_map, List.getElem?_range hi, Option.map_some,
    bufferByte, Nat.zero_add, if_pos hmax, hb, Option.getD_some]

/-- Settles O28: the candidate is RXBUF as DECODE reads it, and its draws are counted. -/
theorem decodeUnpacksTheCandidateOrReportsMalformed :
    Obligations.DecodeUnpacksTheCandidateOrReportsMalformed := by
  intro s ready
  have hexec : exec .decode s = outcomeOf (runDecode (s.begin (some .decode))) :=
    exec_of_ready rfl ready
  have hcand : (s.begin (some .decode)).candidate = s.candidate := rfl
  refine ⟨s.candidate, s.env.draws + s.rxLen.toNat, shows_candidate s, ?_⟩
  rw [hexec, runDecode, begin_cfg, hcand]
  cases decodeFrame s.cfg.wireOrder s.candidate with
  | none => rfl
  | some frame => rfl

end Sys2Proof.Machine
end

section
/-! The statements of 41_fragmenter.md about one command: FRAG_START, the errors of SEND, FRAG_NEXT, XMIT,
the 15 bits of an offset, and a wait that ends. -/

namespace Sys2Proof.Machine

open Sys2Proof

/-! ### Starting a message (41_fragmenter.md R143) -/

theorem inRange_eq_false_iff {a n : Nat} : inRange a n = false ↔ n ≠ 0 ∧ hostSpace < a + n := by
  simp [inRange]

/-- A register's region wraps only where its length is not 0 (20_memory.md R72). -/
theorem inRange_of_wraps {base len : Word} (h : 2 ^ 32 < base.toNat + len.toNat) :
    inRange base.toNat len.toNat = false := by
  have := base.isLt
  exact inRange_eq_false_iff.2 ⟨by omega, h⟩

theorem startMessage_of_unresolved {s : State} (h : s.regs.localValid = false) :
    startMessage s = .error .addressResolutionError := by
  simp [startMessage, h]

theorem startMessage_of_wrapped {s : State} (hv : s.regs.localValid = true)
    (hr : inRange s.regs.msgBase.toNat s.regs.msgLen.toNat = false) :
    startMessage s = .error .rangeError := by
  simp [startMessage, hv, hr]

theorem startMessage_of_tooLong {s : State} (hv : s.regs.localValid = true)
    (hr : inRange s.regs.msgBase.toNat s.regs.msgLen.toNat = true)
    (hl : tooLong s.cfg s.regs.msgLen.toNat s.regs.align = true) :
    startMessage s = .error .messageTooLong := by
  simp [startMessage, hv, hr, hl]

/-- A draw with what it changes: the source's next value is taken when the surroundings name one. -/
theorem draw16_snd (s : State) : ∃ (e : List Half) (n : Nat),
    (draw16 s).2 = { s with env := { s.env with entropy := e, draws := n } } ∧
      ∀ w rest, s.env.entropy = w :: rest → (draw16 s).1 = w ∧ e = rest := by
  unfold draw16
  cases hsrc : s.env.entropy with
  | nil => exact ⟨[], s.env.draws + 1, by simp [State.drawn, ← hsrc], by simp⟩
  | cons v rest => exact ⟨rest, s.env.draws, rfl, by simp⟩

/-- A message that passes the checks is latched with one draw. -/
theorem startMessage_of_accepted {s : State} (hv : s.regs.localValid = true)
    (hr : inRange s.regs.msgBase.toNat s.regs.msgLen.toNat = true)
    (hl : tooLong s.cfg s.regs.msgLen.toNat s.regs.align = false) :
    startMessage s = .ok { (draw16 s).2 with
      fctx := s.regs.context (draw16 s).1
      frag := ⟨(draw16 s).1, 0, 0⟩
      status.fragActive := true } := by
  obtain ⟨e, n, hdraw, -⟩ := draw16_snd s
  simp only [startMessage, hv, hr, hl, hdraw, Bool.not_true, Bool.false_eq_true, if_false]

/-- What a ready block's command does is what the command's body does. -/
theorem exec_ofCmd_of_ready (c : Cmd) {s : State} (ready : s.Ready) :
    exec (Instr.ofCmd c) s = outcomeOf (runCmd c (s.begin (some c))) := by
  cases c <;> exact exec_of_ready rfl ready

theorem exec_of_runCmd (c : Cmd) {s t : State} (ready : s.Ready)
    (h : runCmd c (s.begin (some c)) = .ok t) : exec (Instr.ofCmd c) s = .next t := by
  rw [exec_ofCmd_of_ready c ready, h, outcomeOf]

/-- FRAG_START and SEND end with the code that starting the message raises. -/
theorem runCmd_of_startMessage_error {c : Cmd} (hc : c = .fragStart ∨ c = .send) {s : State}
    {code : ResultCode} (h : startMessage s = .error code) : runCmd c s = .ok (s.raise code) := by
  obtain rfl | rfl := hc
  · simp only [runCmd, runFragStart, h]
  · simp only [runCmd, runSend, h]

/-- The three errors of FRAG_START and SEND, in the order of R143. -/
theorem exec_startErrors {c : Cmd} (hc : c = .fragStart ∨ c = .send) {s : State} (ready : s.Ready) :
    (s.regs.localValid = false → exec (Instr.ofCmd c) s =
      .next { s with result := .addressResolutionError, engine := .idle, env.raced := [] }) ∧
    (s.regs.localValid = true → 2 ^ 32 < s.regs.msgBase.toNat + s.regs.msgLen.toNat →
      exec (Instr.ofCmd c) s =
        .next { s with result := .rangeError, engine := .idle, env.raced := [] }) ∧
    (s.regs.localValid = true → s.regs.msgBase.toNat + s.regs.msgLen.toNat ≤ 2 ^ 32 →
      tooLong s.cfg s.regs.msgLen.toNat s.regs.align = true →
      exec (Instr.ofCmd c) s =
        .next { s with result := .messageTooLong, engine := .idle, env.raced := [] }) := by
  have hexec {code : ResultCode} (h : startMessage (s.begin (some c)) = .error code) :
      exec (Instr.ofCmd c) s = .next ((s.begin (some c)).raise code) :=
    exec_of_runCmd c ready (runCmd_of_startMessage_error hc h)
  refine ⟨fun hv => ?_, fun hv hwrap => ?_, fun hv hr hl => ?_⟩
  · exact hexec (startMessage_of_unresolved hv)
  · exact hexec (startMessage_of_wrapped hv (inRange_of_wraps hwrap))
  · exact hexec (startMessage_of_tooLong hv (inRange_iff.2 (.inr hr)) hl)

/-- Settles O29: the checks are those of `startMessage`, and an accepted message is latched with one draw. -/
theorem fragStartLatchesTheMessage : Obligations.FragStartLatchesTheMessage := by
  intro s ready
  obtain ⟨hunresolved, hwrapped, htooLong⟩ := exec_startErrors (.inl rfl) ready
  refine ⟨hunresolved, hwrapped, htooLong, fun hv hr hl => ?_⟩
  obtain ⟨e, n, hdraw, hsource⟩ := draw16_snd (s.begin (some .fragStart))
  have hstart := startMessage_of_accepted (s := s.begin (some .fragStart)) hv
    (inRange_iff.2 (.inr hr)) hl
  refine ⟨_, e, n, exec_of_runCmd .fragStart ready ?_, hsource⟩
  simp only [runCmd, runFragStart, hstart, hdraw]
  rfl

/-- Settles O30: SEND starts its message as FRAG_START does. -/
theorem sendStartErrorsChangeOnlyTheResult : Obligations.SendStartErrorsChangeOnlyTheResult :=
  fun _ ready => exec_startErrors (.inr rfl) ready

/-! ### FRAG_NEXT (41_fragmenter.md R146) -/

/-- The next frame of an active message that no host store races with: it is staged, and the registers move
past it. -/
theorem nextFrame_of_active {s : State} (active : s.status.fragActive = true)
    (hr : s.fctx.base.toNat + s.fctx.len.toNat ≤ hostSpace)
    (hc : s.frag.cursor.toNat ≤ s.fctx.len.toNat) (h : s.Unraced) :
    nextFrame s = .ok { s with
      txBuf := s.txBuf.writeBytes 0 (encodeFrame s.cfg.wireOrder s.nextHeader
        (s.mem.hostBytes (s.fctx.base.toNat + s.frag.cursor.toNat) s.nextPlen))
      txLen := BitVec.ofNat 32 (51 + s.nextPlen)
      frag.cursor := BitVec.ofNat 32 (s.frag.cursor.toNat + s.nextPlen)
      frag.offblk := BitVec.ofNat 32 (s.frag.offblk.toNat + s.nextPlen / s.cfg.blockSize)
      status.txValid := true
      status.fragActive := s.nextMore } := by
  have hmore : (if s.nextMore then s.status.fragActive else false) = s.nextMore := by simp [active]
  simp only [nextFrame, memRead_of_not_raced (inRange_nextPlen hr hc) (racedIn_of_unraced h _ _),
    State.stage, length_encodeFrame, length_hostBytes, State.pastNext, hmore]

/-- Settles O31: FRAG_NEXT in a ready block reads unraced memory, so it stages the next frame. -/
theorem fragNextProducesTheNextFrame : Obligations.FragNextProducesTheNextFrame := by
  refine ⟨fun s ready hidle => ?_, ?_⟩
  · have hrun : runFragNext (s.begin (some .fragNext)) =
        .ok ((s.begin (some .fragNext)).raise .fragNotActive) := by simp [runFragNext, hidle]
    exact exec_of_runCmd .fragNext ready hrun
  · rintro s stepLen plen more ready active hrange hcursor rfl rfl rfl
    have hnext := nextFrame_of_active (s := s.begin (some .fragNext)) active hrange hcursor rfl
    exact (exec_of_ready rfl ready).trans
      (engineMove_fragNext (s := s.begin (some .fragNext)) rfl active hnext)

/-! ### XMIT (41_fragmenter.md R149) -/

/-- The frame a TxSend offers holds every byte of TXBUF written since reset: it is read as RXBUF is. -/
theorem stages_stagedFrame (s : State) : s.Stages s.stagedFrame :=
  shows_candidate { s with rxBuf := s.txBuf, rxLen := s.txLen }

theorem runXmit_of_unstaged {s : State} (h : s.status.txValid = false) :
    runXmit s = .ok (s.raise .noFrame) := by
  simp [runXmit, h]

theorem runXmit_of_staged {s : State} (h : s.status.txValid = true) :
    runXmit s = .ok (xmitWait (s.offer .xmit)) := by
  simp [runXmit, h]

theorem xmitWait_of_accepted {s : State} {rest : List TxAnswer}
    (h : s.env.txAnswers = .accepted s.txLen.toNat :: rest) :
    xmitWait s = (s.answered (.accepted s.txLen.toNat) rest).finish .ok := by
  simp [xmitWait, h, sendAccepted]

theorem xmitWait_of_failed {s : State} {a : TxAnswer} {rest : List TxAnswer}
    (h : s.env.txAnswers = a :: rest) (ha : a ≠ .accepted s.txLen.toNat) :
    xmitWait s = (s.answered a rest).raise .transportError := by
  simp [xmitWait, h, sendAccepted_iff, ha]

theorem xmitWait_of_no_answer {s : State} (h : s.env.txAnswers = []) : xmitWait s = s := by
  simp [xmitWait, h]

/-- Settles O32: XMIT of a staged frame offers it and goes on as the wait does with the answers ready. -/
theorem xmitOffersTheStagedFrame : Obligations.XmitOffersTheStagedFrame := by
  refine ⟨fun s ready hunstaged => ?_, fun s ready hstaged => ?_⟩
  · exact exec_of_runCmd .xmit ready (runXmit_of_unstaged (s := s.begin (some .xmit)) hunstaged)
  · have hexec : exec .xmit s = .next (xmitWait ((s.begin (some .xmit)).offer .xmit)) :=
      exec_of_runCmd .xmit ready (runXmit_of_staged (s := s.begin (some .xmit)) hstaged)
    rw [hexec]
    refine ⟨s.stagedFrame, s.env.draws + s.txLen.toNat, stages_stagedFrame s, ?taken, ?failed, ?waits⟩
    case taken => exact fun rest h => congrArg Host.Outcome.next (xmitWait_of_accepted h)
    case failed => exact fun a rest h ha => congrArg Host.Outcome.next (xmitWait_of_failed h ha)
    case waits => exact fun h => congrArg Host.Outcome.next (xmitWait_of_no_answer h)

/-! ### The offset field (41_fragmenter.md R144, 30_encoding.md R93) -/

theorem extractLsb'_offsetField (more : Bool) (offblk : BitVec 15) :
    (BitVec.ofBool more ++ offblk).extractLsb' 0 15 = offblk := by
  rw [BitVec.extractLsb'_append_eq_of_add_le (by decide)]
  simp

theorem getLsbD_offsetField (more : Bool) (offblk : BitVec 15) :
    (BitVec.ofBool more ++ offblk).getLsbD 15 = more := by
  rw [BitVec.getLsbD_append]
  simp

/-- Settles O36: FRAG_OFFBLK of an active message is k × K for a frame k of it, which fits 15 bits. -/
theorem activeOffsetsFitFifteenBits : Obligations.ActiveOffsetsFitFifteenBits := by
  intro s inv active
  obtain ⟨k, hk, -, hoff⟩ := inv.progress active
  have hfits : s.frag.offblk.toNat ≤ 0x7FFF := hoff ▸ offset_le_of_fits inv.message_fits hk
  refine ⟨hfits, ?_, getLsbD_offsetField _ _⟩
  rw [Header.offblk, State.nextHeader, offsetFieldOf, extractLsb'_offsetField, BitVec.extractLsb'_toNat,
    Nat.shiftRight_zero]
  omega

/-! ### A wait that ends (60_exceptions.md section 4) -/

/-- The block with other answers ready for its TxSends. -/
def State.withTxAnswers (answers : List TxAnswer) (s : State) : State :=
  { s with env.txAnswers := answers }

@[simp] theorem withTxAnswers_cfg (answers : List TxAnswer) (s : State) :
    (s.withTxAnswers answers).cfg = s.cfg := rfl
@[simp] theorem withTxAnswers_regs (answers : List TxAnswer) (s : State) :
    (s.withTxAnswers answers).regs = s.regs := rfl
@[simp] theorem withTxAnswers_fctx (answers : List TxAnswer) (s : State) :
    (s.withTxAnswers answers).fctx = s.fctx := rfl
@[simp] theorem withTxAnswers_frag (answers : List TxAnswer) (s : State) :
    (s.withTxAnswers answers).frag = s.frag := rfl
@[simp] theorem withTxAnswers_nextPlen (answers : List TxAnswer) (s : State) :
    (s.withTxAnswers answers).nextPlen = s.nextPlen := rfl

theorem draw16_withTxAnswers (answers : List TxAnswer) (s : State) :
    draw16 (s.withTxAnswers answers) = ((draw16 s).1, (draw16 s).2.withTxAnswers answers) := by
  unfold draw16
  rw [show (s.withTxAnswers answers).env.entropy = s.env.entropy from rfl]
  cases s.env.entropy <;> rfl

/-- Starting a message looks at no answer of the transport. -/
theorem startMessage_withTxAnswers (answers : List TxAnswer) (s : State) :
    startMessage (s.withTxAnswers answers) =
      (startMessage s).map (State.withTxAnswers answers) := by
  simp only [startMessage, draw16_withTxAnswers, withTxAnswers_regs, withTxAnswers_cfg]
  split_ifs <;> rfl

theorem memRead_withTxAnswers (answers : List TxAnswer) (s : State) (base len a n : Nat) :
    (s.withTxAnswers answers).memRead base len a n =
      (s.memRead base len a n).map (Prod.map id (State.withTxAnswers answers)) := by
  cases hr : inRange a n with
  | false => simp only [State.memRead, hr]; rfl
  | true =>
    cases hraced : s.racedIn base len with
    | false =>
      rw [memRead_of_not_raced hr hraced,
        memRead_of_not_raced (s := s.withTxAnswers answers) hr hraced]
      rfl
    | true =>
      rw [memRead_of_raced hr hraced, memRead_of_raced (s := s.withTxAnswers answers) hr hraced]
      rfl

/-- Building a frame looks at no answer of the transport. -/
theorem nextFrame_withTxAnswers (answers : List TxAnswer) (s : State) :
    nextFrame (s.withTxAnswers answers) = (nextFrame s).map (State.withTxAnswers answers) := by
  simp only [nextFrame, memRead_withTxAnswers, withTxAnswers_fctx, withTxAnswers_frag,
    withTxAnswers_nextPlen]
  cases s.memRead s.fctx.base.toNat s.fctx.len.toNat (s.fctx.base.toNat + s.frag.cursor.toNat)
    s.nextPlen <;> rfl

/-- Without an answer, XMIT either ends or waits with its frame offered. -/
theorem xmit_waits {s w : State} (hno : s.env.txAnswers = []) (h : runXmit s = .ok w)
    (hw : w.engine.phase = .waitTx) : s.status.txValid = true ∧ w = s.offer .xmit := by
  cases hv : s.status.txValid with
  | false =>
    rw [runXmit_of_unstaged hv] at h
    cases h
    cases hw
  | true =>
    rw [runXmit_of_staged hv, xmitWait_of_no_answer (s := s.offer .xmit) hno] at h
    cases h
    exact ⟨rfl, rfl⟩

theorem txAnswers_of_firstFrame {s u v : State} (hu : startMessage s = .ok u)
    (hv : nextFrame u = .ok v) : v.env.txAnswers = s.env.txAnswers := by
  obtain ⟨p, n, -, rfl⟩ := nextFrame_cases hv
  obtain ⟨-, -, -, -, -, -, rfl⟩ := startMessage_cases hu
  rfl

/-- SEND whose first frame is built goes on as its wait does with the answers ready. -/
theorem runSend_of_firstFrame {s u v : State} (hu : startMessage s = .ok u)
    (hv : nextFrame u = .ok v) : runSend s = sendWait s.env.txAnswers (v.offer .send) := by
  simp only [runSend, hu, hv, txAnswers_of_firstFrame hu hv]

/-- Without an answer, SEND either ends or waits with its first frame offered. -/
theorem send_waits {s w : State} (hno : s.env.txAnswers = []) (h : runSend s = .ok w)
    (hw : w.engine.phase = .waitTx) :
    ∃ u v, startMessage s = .ok u ∧ nextFrame u = .ok v ∧ w = v.offer .send := by
  cases hu : startMessage s with
  | error code =>
    rw [show runSend s = _ from runCmd_of_startMessage_error (.inr rfl) hu] at h
    cases h
    cases hw
  | ok u =>
    cases hv : nextFrame u with
    | error f => simp [runSend, hu, hv] at h
    | ok v =>
      rw [runSend_of_firstFrame hu hv, hno] at h
      cases h
      exact ⟨u, v, rfl, hv, rfl⟩

/-- SEND with other answers ready builds the same first frame. -/
theorem runSend_withTxAnswers {s u v : State} (hu : startMessage s = .ok u) (hv : nextFrame u = .ok v)
    (answers : List TxAnswer) :
    runSend (s.withTxAnswers answers) = sendWait answers ((v.offer .send).withTxAnswers answers) := by
  have hu' : startMessage (s.withTxAnswers answers) = .ok (u.withTxAnswers answers) := by
    rw [startMessage_withTxAnswers, hu]; rfl
  have hv' : nextFrame (u.withTxAnswers answers) = .ok (v.withTxAnswers answers) := by
    rw [nextFrame_withTxAnswers, hv]; rfl
  exact runSend_of_firstFrame hu' hv'

/-- RECV without a delivery waits. -/
theorem recv_waits {s w : State} (hno : s.env.rxQueue = []) (h : runRecv s = .ok w) :
    w = { s with engine := .waitRx .recv } := by
  simp only [runRecv, recvWait, hno] at h
  cases h
  rfl

theorem runRxStep_of_armed {s : State} (h : rxRefusal s = none) :
    runRxStep s = rxStepWait { s with engine := .waitRx .rxStep } := by
  simp only [runRxStep, h]

/-- RX_STEP without a delivery either ends or waits. -/
theorem rxStep_waits {s w : State} (hno : s.env.rxQueue = []) (h : runRxStep s = .ok w)
    (hw : w.engine.phase = .waitRx) :
    rxRefusal s = none ∧ w = { s with engine := .waitRx .rxStep } := by
  cases hr : rxRefusal s with
  | some code =>
    rw [runRxStep, hr] at h
    cases h
    cases hw
  | none =>
    simp only [runRxStep_of_armed hr, rxStepWait, hno] at h
    cases h
    exact ⟨rfl, rfl⟩

/-- Settles O51: each waiting command offers or asks before it looks at an answer, so the answers can come
later. -/
theorem anAnswerEndsTheWaitAsIfItHadBeenReady :
    Obligations.AnAnswerEndsTheWaitAsIfItHadBeenReady := by
  refine ⟨?transmit, ?receive⟩
  case transmit =>
    intro s w c answers hc ready hno hexec hw
    have hrun := eq_ok_of_outcomeOf ((exec_ofCmd_of_ready c ready).symm.trans hexec)
    refine .trans ?_ (exec_ofCmd_of_ready c (s := s.withTxAnswers answers) ready).symm
    obtain rfl | rfl := hc
    · obtain ⟨hv, rfl⟩ := xmit_waits (s := s.begin (some .xmit)) hno hrun hw
      exact congrArg outcomeOf (runXmit_of_staged (s := (s.withTxAnswers answers).begin _) hv).symm
    · obtain ⟨u, v, hu, hv, rfl⟩ := send_waits (s := s.begin (some .send)) hno hrun hw
      exact congrArg outcomeOf (runSend_withTxAnswers hu hv answers).symm
  case receive =>
    intro s w c answers hc ready hno hexec hw
    have hrun := eq_ok_of_outcomeOf ((exec_ofCmd_of_ready c ready).symm.trans hexec)
    refine .trans ?_ (exec_ofCmd_of_ready c (s := { s with env.rxQueue := answers }) ready).symm
    obtain rfl | rfl := hc
    · cases recv_waits (s := s.begin (some .recv)) hno hrun
      rfl
    · obtain ⟨hr, rfl⟩ := rxStep_waits (s := s.begin (some .rxStep)) hno hrun hw
      exact congrArg outcomeOf
        (runRxStep_of_armed (s := { s.begin (some .rxStep) with env.rxQueue := answers }) hr).symm

end Sys2Proof.Machine
end

section
/-! SEND over the frames of a message (41_fragmenter.md R140 to R142, R150): it waits for the answer to frame
k with the registers past frame k, for one k after another. -/

namespace Sys2Proof.Machine

open Sys2Proof

/-! ### The chunks of a message (41_fragmenter.md R140) -/

theorem messageFrames_pos (c : Config) (f : Fctx) : 0 < messageFrames c f := frameCount_pos _ _ _

/-- Frame k + 1 exists exactly when the first k + 1 chunks do not reach the message's end. -/
theorem succ_lt_messageFrames_iff {c : Config} {f : Fctx} {k : Nat} :
    k + 1 < messageFrames c f ↔ (k + 1) * chunkStep c f.align < f.len.toNat := by
  refine ⟨fun h => ?_, succ_lt_frameCount⟩
  have hlen : f.len.toNat ≠ 0 := by
    intro hzero
    simp [messageFrames, frameCount, hzero] at h
  rw [messageFrames, frameCount, if_neg hlen, ceilDiv,
    Nat.lt_div_iff_mul_lt (chunkStep_pos c f.align)] at h
  omega

theorem chunkStart_le {c : Config} {f : Fctx} {k : Nat} (hk : k < messageFrames c f) :
    k * chunkStep c f.align ≤ f.len.toNat := by
  cases k with
  | zero => simp
  | succ j => exact (succ_lt_messageFrames_iff.1 hk).le

/-- Every chunk but the last is full. -/
theorem chunkLen_of_succ_lt {c : Config} {f : Fctx} {k : Nat} (hk : k + 1 < messageFrames c f) :
    chunkLen c f k = chunkStep c f.align := by
  have := succ_lt_messageFrames_iff.1 hk
  rw [Nat.succ_mul] at this
  unfold chunkLen
  omega

/-- A chunk ends within its message. -/
theorem chunkEnd_le {c : Config} {f : Fctx} {k : Nat} (hk : k < messageFrames c f) :
    k * chunkStep c f.align + chunkLen c f k ≤ f.len.toNat := by
  have := chunkStart_le hk
  unfold chunkLen
  omega

/-- The last chunk ends where its message ends. -/
theorem chunkEnd_of_last {c : Config} {f : Fctx} {k : Nat} (hk : k + 1 = messageFrames c f) :
    k * chunkStep c f.align + chunkLen c f k = f.len.toNat := by
  have hstart := chunkStart_le (k := k) (f := f) (c := c) (by omega)
  have hend : ¬ (k + 1) * chunkStep c f.align < f.len.toNat := by
    rw [← succ_lt_messageFrames_iff]
    omega
  rw [Nat.succ_mul] at hend
  unfold chunkLen
  omega

/-- A frame fits TXBUF and RXBUF. -/
theorem chunkLen_add_header_le (c : Config) (f : Fctx) (k : Nat) :
    51 + chunkLen c f k ≤ c.maxFrame := by
  have hchunk : chunkLen c f k ≤ payloadBudget c :=
    Nat.le_trans (Nat.min_le_left _ _) (chunkStep_le _ _)
  have := payloadBudget_add c
  rw [headerSize] at this
  omega

/-- A length up to MAX_FRAME_SIZE is held whole by a register (00_scope.md R9). -/
theorem toNat_ofNat_of_le_maxFrame {c : Config} {n : Nat} (h : n ≤ c.maxFrame) :
    (BitVec.ofNat 32 n).toNat = n := by
  have hwindow : c.maxFrame ≤ 4096 := c.frame_upper
  rw [BitVec.toNat_ofNat]
  omega

theorem toNat_txLen_of_chunk (c : Config) (f : Fctx) (k : Nat) :
    (BitVec.ofNat 32 (51 + chunkLen c f k)).toNat = 51 + chunkLen c f k :=
  toNat_ofNat_of_le_maxFrame (chunkLen_add_header_le c f k)

theorem messageFrame_eq_encodeFrame (c : Config) (f : Fctx) (m : Memory) (k : Nat) :
    messageFrame c f m k = encodeFrame c.wireOrder (messageHeader c f k)
      (m.hostBytes (f.base.toNat + k * chunkStep c f.align) (chunkLen c f k)) := rfl

@[simp] theorem length_messageFrame (c : Config) (f : Fctx) (m : Memory) (k : Nat) :
    (messageFrame c f m k).length = 51 + chunkLen c f k := by
  rw [messageFrame_eq_encodeFrame, length_encodeFrame, length_hostBytes]

/-- FRAG_CURSOR once frame k has been produced. -/
def cursorAfter (c : Config) (f : Fctx) (k : Nat) : Nat := k * chunkStep c f.align + chunkLen c f k

/-- FRAG_OFFBLK once frame k has been produced. -/
def offblkAfter (c : Config) (f : Fctx) (k : Nat) : Nat :=
  k * blocksPerChunk c + chunkLen c f k / c.blockSize

theorem toNat_cursorAfter {c : Config} {f : Fctx} {k : Nat} (hk : k < messageFrames c f) :
    (BitVec.ofNat 32 (cursorAfter c f k)).toNat = cursorAfter c f k := by
  have hend : cursorAfter c f k ≤ f.len.toNat := chunkEnd_le hk
  have := f.len.isLt
  rw [BitVec.toNat_ofNat]
  omega

theorem toNat_offblkAfter {c : Config} {f : Fctx} {k : Nat} (hk : k < messageFrames c f)
    (fits : tooLong c f.len.toNat f.align = false) :
    (BitVec.ofNat 32 (offblkAfter c f k)).toNat = offblkAfter c f k := by
  have hstart : k * blocksPerChunk c ≤ 0x7FFF := offset_le_of_fits fits hk
  have hblocks : chunkLen c f k / c.blockSize ≤ chunkLen c f k := Nat.div_le_self _ _
  have hfits := chunkLen_add_header_le c f k
  have hwindow : c.maxFrame ≤ 4096 := c.frame_upper
  have hlt : offblkAfter c f k < 2 ^ 32 := by
    rw [offblkAfter]
    omega
  rw [BitVec.toNat_ofNat, Nat.mod_eq_of_lt hlt]

/-- After a frame that is not the last, the registers stand at the next frame. -/
theorem cursorAfter_of_succ_lt {c : Config} {f : Fctx} {k : Nat} (hk : k + 1 < messageFrames c f) :
    cursorAfter c f k = (k + 1) * chunkStep c f.align := by
  rw [cursorAfter, chunkLen_of_succ_lt hk, Nat.succ_mul]

theorem offblkAfter_of_succ_lt {c : Config} {f : Fctx} {k : Nat} (hk : k + 1 < messageFrames c f) :
    offblkAfter c f k = (k + 1) * blocksPerChunk c := by
  rw [offblkAfter, chunkLen_of_succ_lt hk, chunkStep_div, Nat.succ_mul]

/-! ### Building frame k (41_fragmenter.md R141, R142, R146) -/

/-- The next frame the block builds is frame k of its latched message, and no host store races with it. -/
structure State.AtFrame (s : State) (k : Nat) : Prop where
  active : s.status.fragActive = true
  unraced : s.Unraced
  inMessage : k < messageFrames s.cfg s.fctx
  cursor : s.frag.cursor.toNat = k * chunkStep s.cfg s.fctx.align
  offblk : s.frag.offblk.toNat = k * blocksPerChunk s.cfg
  range : s.fctx.base.toNat + s.fctx.len.toNat ≤ hostSpace
  shown : s.frag.id = s.fctx.fragid

theorem State.AtFrame.nextPlen_eq {s : State} {k : Nat} (h : s.AtFrame k) :
    s.nextPlen = chunkLen s.cfg s.fctx k := by
  rw [State.nextPlen, h.cursor, chunkLen]

theorem State.AtFrame.nextMore_eq {s : State} {k : Nat} (h : s.AtFrame k) :
    s.nextMore = decide (k + 1 < messageFrames s.cfg s.fctx) := by
  rw [State.nextMore, h.cursor, h.nextPlen_eq, decide_eq_decide, succ_lt_messageFrames_iff,
    Nat.succ_mul, chunkLen]
  omega

theorem State.AtFrame.nextHeader_eq {s : State} {k : Nat} (h : s.AtFrame k) :
    s.nextHeader = messageHeader s.cfg s.fctx k := by
  have hoff : s.frag.offblk.extractLsb' 0 15 = BitVec.ofNat 15 (k * blocksPerChunk s.cfg) := by
    apply BitVec.eq_of_toNat_eq
    rw [BitVec.extractLsb'_toNat, Nat.shiftRight_zero, h.offblk, BitVec.toNat_ofNat]
  rw [State.nextHeader, h.nextPlen_eq, h.nextMore_eq, offsetFieldOf, hoff, messageHeader]

/-- Frame k is staged, and the registers move past it. -/
theorem State.AtFrame.nextFrame_eq {s : State} {k : Nat} (h : s.AtFrame k) :
    nextFrame s = .ok { s with
      txBuf := s.txBuf.writeBytes 0 (messageFrame s.cfg s.fctx s.mem k)
      txLen := BitVec.ofNat 32 (51 + chunkLen s.cfg s.fctx k)
      frag.cursor := BitVec.ofNat 32 (cursorAfter s.cfg s.fctx k)
      frag.offblk := BitVec.ofNat 32 (offblkAfter s.cfg s.fctx k)
      status.txValid := true
      status.fragActive := decide (k + 1 < messageFrames s.cfg s.fctx) } := by
  have hcursor : s.frag.cursor.toNat ≤ s.fctx.len.toNat := h.cursor ▸ chunkStart_le h.inMessage
  rw [nextFrame_of_active h.active h.range hcursor h.unraced, h.nextHeader_eq, h.nextPlen_eq,
    h.nextMore_eq, h.cursor, h.offblk]
  rfl

/-- A frame just written to TXBUF is the one a TxSend offers. -/
theorem stagedFrame_of_written {s : State} {buf : Memory} {frame : List Byte}
    (hbuf : s.txBuf = buf.writeBytes 0 frame) (hlen : s.txLen.toNat = frame.length)
    (hfits : frame.length ≤ s.cfg.maxFrame) : s.stagedFrame = frame := by
  rw [State.stagedFrame, hbuf, hlen]
  exact bufferBytes_writeBytes _ _ _ _ hfits

/-! ### SEND waiting for frame k -/

/-- The records of the first k frames, taken in full, newest first. -/
def sentLog (c : Config) (f : Fctx) (m : Memory) (k : Nat) : List TxRecord :=
  ((List.range k).map (fun i =>
    (⟨messageFrame c f m i, .answered (fullAnswer c f i)⟩ : TxRecord))).reverse

theorem sentLog_succ (c : Config) (f : Fctx) (m : Memory) (k : Nat) :
    sentLog c f m (k + 1) =
      ⟨messageFrame c f m k, .answered (fullAnswer c f k)⟩ :: sentLog c f m k := by
  simp [sentLog, List.range_succ]

/-- The block in WAIT_TX, frame k of message f staged over TXBUF, with the given surroundings. -/
def State.sendingFrame (s : State) (f : Fctx) (k : Nat) (buf : Memory) (env : Env) : State :=
  { s with
    engine := .waitTx .send
    status := { s.status with
      fragActive := decide (k + 1 < messageFrames s.cfg f)
      txValid := true }
    fctx := f
    frag := ⟨f.fragid, BitVec.ofNat 32 (cursorAfter s.cfg f k), BitVec.ofNat 32 (offblkAfter s.cfg f k)⟩
    txLen := BitVec.ofNat 32 (51 + chunkLen s.cfg f k)
    txBuf := buf.writeBytes 0 (messageFrame s.cfg f s.mem k)
    env := env }

/-- Building frame k and offering it. -/
theorem State.AtFrame.offers {s : State} {k : Nat} (h : s.AtFrame k) :
    ∃ v, nextFrame s = .ok v ∧ v.offer .send = s.sendingFrame s.fctx k s.txBuf { s.env with
      txLog := ⟨messageFrame s.cfg s.fctx s.mem k, .pending⟩ :: s.env.txLog
      draws := s.env.draws + (51 + chunkLen s.cfg s.fctx k) } := by
  refine ⟨_, h.nextFrame_eq, ?_⟩
  have hlen := toNat_txLen_of_chunk s.cfg s.fctx k
  rw [State.offer, stagedFrame_of_written rfl (hlen.trans (length_messageFrame _ _ _ _).symm)
    (by rw [length_messageFrame]; exact chunkLen_add_header_le _ _ _), hlen, State.sendingFrame,
    ← h.shown]

/-- The surroundings then: frames 0 .. k - 1 taken in full, frame k offered, the given answers left. -/
def State.sendingEnv (s : State) (f : Fctx) (k : Nat) (answers : List TxAnswer) (e : List Half)
    (draws : Nat) : Env :=
  { s.env with
    txAnswers := answers
    entropy := e
    txLog := ⟨messageFrame s.cfg f s.mem k, .pending⟩ :: sentLog s.cfg f s.mem k ++ s.env.txLog
    raced := []
    draws := draws }

/-- Frame k of the message is offered, and SEND waits with the given answers left. -/
def SendWaits (s : State) (f : Fctx) (k : Nat) (answers : List TxAnswer) (t : State) : Prop :=
  ∃ (buf : Memory) (e : List Half) (draws : Nat),
    t = s.sendingFrame f k buf (s.sendingEnv f k answers e draws)

/-- What SEND needs to start: a ready block, R143's checks passed, and f the context it latches. -/
structure MaySend (s : State) (f : Fctx) : Prop where
  ready : s.Ready
  resolved : s.regs.localValid = true
  range : s.regs.msgBase.toNat + s.regs.msgLen.toNat ≤ hostSpace
  fits : tooLong s.cfg s.regs.msgLen.toNat s.regs.align = false
  latched : f = s.regs.context (draw16 s).1

theorem draw16_begin_fst (op : Option Cmd) (s : State) : (draw16 (s.begin op)).1 = (draw16 s).1 := by
  unfold draw16
  rw [show (s.begin op).env.entropy = s.env.entropy from rfl]
  cases s.env.entropy <;> rfl

/-- A message just started stands at its frame 0. -/
theorem atFrame_zero_of_startMessage {s u : State} (hu : startMessage s = .ok u) (unraced : s.Unraced)
    (range : s.regs.msgBase.toNat + s.regs.msgLen.toNat ≤ hostSpace) : u.AtFrame 0 := by
  obtain ⟨-, -, -, v, e, n, rfl⟩ := startMessage_cases hu
  exact {
    active := rfl
    unraced := unraced
    inMessage := messageFrames_pos _ _
    cursor := (Nat.zero_mul _).symm
    offblk := (Nat.zero_mul _).symm
    range := range
    shown := rfl }

/-- SEND builds and offers frame 0. -/
theorem exec_send_offers_first {s : State} {f : Fctx} (h : MaySend s f) :
    ∃ t, exec .send s = outcomeOf (sendWait s.env.txAnswers t) ∧
      SendWaits s f 0 s.env.txAnswers t := by
  obtain ⟨ready, resolved, range, fits, rfl⟩ := h
  obtain ⟨e, n, hdraw, -⟩ := draw16_snd (s.begin (some .send))
  have hstart := startMessage_of_accepted (s := s.begin (some .send)) resolved
    (inRange_iff.2 (.inr range)) fits
  rw [hdraw, draw16_begin_fst] at hstart
  obtain ⟨v, hnext, hoffer⟩ := (atFrame_zero_of_startMessage hstart rfl range).offers
  refine ⟨v.offer .send, ?_, s.txBuf, e, _, hoffer⟩
  exact (exec_ofCmd_of_ready .send ready).trans
    (congrArg outcomeOf (runSend_of_firstFrame hstart hnext))

/-! ### SEND's answers (41_fragmenter.md R150) -/

theorem sendWait_of_next {t v : State} {a : TxAnswer} {rest : List TxAnswer}
    (ha : a = .accepted t.txLen.toNat) (active : t.status.fragActive = true)
    (hv : nextFrame (t.answered a rest) = .ok v) :
    sendWait (a :: rest) t = sendWait rest (v.offer .send) := by
  simp [sendWait, sendAccepted_iff.2 ha, active, hv]

theorem sendWait_of_last {t : State} {a : TxAnswer} {rest : List TxAnswer}
    (ha : a = .accepted t.txLen.toNat) (inactive : t.status.fragActive = false) :
    sendWait (a :: rest) t = .ok ((t.answered a rest).finish .ok) := by
  simp [sendWait, sendAccepted_iff.2 ha, inactive]

theorem sendWait_of_failed {t : State} {a : TxAnswer} {rest : List TxAnswer}
    (ha : a ≠ .accepted t.txLen.toNat) :
    sendWait (a :: rest) t =
      .ok ({ t.answered a rest with status.fragActive := false }.raise .transportError) := by
  have hfailed : sendAccepted a t.txLen = false := by
    rw [← Bool.not_eq_true, sendAccepted_iff]
    exact ha
  simp [sendWait, hfailed]

/-- The whole of frame k's bytes is the answer that takes it in full. -/
theorem fullAnswer_eq (s : State) (f : Fctx) (k : Nat) (buf : Memory) (env : Env) :
    fullAnswer s.cfg f k = .accepted (s.sendingFrame f k buf env).txLen.toNat :=
  congrArg TxAnswer.accepted (toNat_txLen_of_chunk s.cfg f k).symm

/-- Frame k taken in full: SEND offers frame k + 1. -/
theorem SendWaits.next {s t : State} {f : Fctx} {k : Nat} {rest : List TxAnswer} (h : MaySend s f)
    (hk : k + 1 < messageFrames s.cfg f) (ht : SendWaits s f k (fullAnswer s.cfg f k :: rest) t) :
    ∃ u, sendWait (fullAnswer s.cfg f k :: rest) t = sendWait rest u ∧
      SendWaits s f (k + 1) rest u := by
  obtain ⟨buf, e, n, rfl⟩ := ht
  have active : decide (k + 1 < messageFrames s.cfg f) = true := decide_eq_true hk
  have hnext : State.AtFrame ((s.sendingFrame f k buf
      (s.sendingEnv f k (fullAnswer s.cfg f k :: rest) e n)).answered (fullAnswer s.cfg f k) rest)
      (k + 1) := {
    active := active
    unraced := rfl
    inMessage := hk
    cursor := (toNat_cursorAfter (Nat.lt_of_succ_lt hk)).trans (cursorAfter_of_succ_lt hk)
    offblk := (toNat_offblkAfter (Nat.lt_of_succ_lt hk) (h.latched ▸ h.fits)).trans
      (offblkAfter_of_succ_lt hk)
    range := h.latched ▸ h.range
    shown := rfl }
  obtain ⟨v, hv, hoffer⟩ := hnext.offers
  refine ⟨v.offer .send, sendWait_of_next (fullAnswer_eq _ _ _ _ _) active hv,
    buf.writeBytes 0 (messageFrame s.cfg f s.mem k), e, n + (51 + chunkLen s.cfg f (k + 1)), ?_⟩
  simp only [hoffer, State.sendingEnv, sentLog_succ]
  rfl

/-- The last of n + 1 answers stands before those left. -/
theorem map_range_succ_append {α : Type} (g : Nat → α) (n : Nat) (rest : List α) :
    (List.range (n + 1)).map g ++ rest = (List.range n).map g ++ g n :: rest := by
  simp [List.range_succ]

/-- With frames 0 .. k - 1 taken in full, SEND offers frame k with the other answers left. -/
theorem exec_send_offers {s : State} {f : Fctx} (h : MaySend s f) {k : Nat}
    (hk : k < messageFrames s.cfg f) {answers : List TxAnswer}
    (hanswers : s.env.txAnswers = (List.range k).map (fullAnswer s.cfg f) ++ answers) :
    ∃ t, exec .send s = outcomeOf (sendWait answers t) ∧ SendWaits s f k answers t := by
  induction k generalizing answers with
  | zero =>
    obtain rfl : s.env.txAnswers = answers := hanswers
    exact exec_send_offers_first h
  | succ k ih =>
    obtain ⟨t, hexec, ht⟩ := ih (Nat.lt_of_succ_lt hk)
      (hanswers.trans (map_range_succ_append _ _ _))
    obtain ⟨u, hstep, hu⟩ := ht.next h hk
    exact ⟨u, hexec.trans (congrArg outcomeOf hstep), hu⟩

theorem stages_sendingFrame (s : State) (f : Fctx) (k : Nat) (buf : Memory) (env : Env) :
    (s.sendingFrame f k buf env).Stages (messageFrame s.cfg f s.mem k) := by
  have hstaged := stagedFrame_of_written (s := s.sendingFrame f k buf env) rfl
    ((toNat_txLen_of_chunk s.cfg f k).trans (length_messageFrame _ _ s.mem _).symm)
    (by rw [length_messageFrame]; exact chunkLen_add_header_le _ _ _)
  exact hstaged ▸ stages_stagedFrame _

/-! ### The three ends of SEND -/

/-- Settles O33: SEND reaches the last frame of the message, whose answer ends it. -/
theorem sendOffersExactlyTheFramesOfTheMessage :
    Obligations.SendOffersExactlyTheFramesOfTheMessage := by
  intro s f n rest ready resolved range fits latched hn hanswers
  have h : MaySend s f := ⟨ready, resolved, range, fits, latched⟩
  have hpos := messageFrames_pos s.cfg f
  obtain ⟨k, rfl⟩ : ∃ k, n = k + 1 := ⟨n - 1, by omega⟩
  have hk : k < messageFrames s.cfg f := by omega
  have hlast : decide (k + 1 < messageFrames s.cfg f) = false := by simp [hn]
  obtain ⟨t, hexec, buf, e, draws, rfl⟩ :=
    exec_send_offers h hk (hanswers.trans (map_range_succ_append _ _ _))
  rw [sendWait_of_last (fullAnswer_eq _ _ _ _ _) hlast] at hexec
  have hcursor : BitVec.ofNat 32 (cursorAfter s.cfg f k) = s.regs.msgLen := by
    apply BitVec.eq_of_toNat_eq
    rw [toNat_cursorAfter hk, cursorAfter, chunkEnd_of_last hn, latched]
  refine ⟨_, hexec, congrArg (· ++ s.env.txLog) (sentLog_succ s.cfg f s.mem k).symm, rfl, rfl, rfl,
    ?status, rfl, rfl, hcursor, toNat_offblkAfter hk (h.latched ▸ h.fits),
    toNat_txLen_of_chunk _ _ _, stages_sendingFrame s f k buf s.env,
    rfl, rfl, rfl, rfl, rfl, rfl, rfl, rfl, rfl⟩
  case status => simp only [finish_status, answered_status, State.sendingFrame, hlast]

/-- Settles O34: an answer to frame k that is not its length ends SEND there. -/
theorem sendStopsAtTheFirstFailedFrame : Obligations.SendStopsAtTheFirstFailedFrame := by
  intro s f k bad rest ready resolved range fits latched hk hbad hanswers
  have h : MaySend s f := ⟨ready, resolved, range, fits, latched⟩
  obtain ⟨t, hexec, buf, e, draws, rfl⟩ := exec_send_offers h hk hanswers
  rw [sendWait_of_failed (fullAnswer_eq s f k _ _ ▸ hbad)] at hexec
  exact ⟨_, hexec, rfl, rfl, rfl, rfl, rfl, rfl, rfl, toNat_txLen_of_chunk _ _ _,
    stages_sendingFrame s f k buf s.env, toNat_cursorAfter hk,
    toNat_offblkAfter hk (h.latched ▸ h.fits), rfl, rfl, rfl, rfl, rfl, rfl, rfl, rfl, rfl⟩

/-- Settles O35: without an answer to frame k SEND waits with it offered. -/
theorem sendWaitsForTheAnswerToEachFrame : Obligations.SendWaitsForTheAnswerToEachFrame := by
  intro s f k ready resolved range fits latched hk hanswers
  have h : MaySend s f := ⟨ready, resolved, range, fits, latched⟩
  obtain ⟨t, hexec, buf, e, draws, rfl⟩ :=
    exec_send_offers (answers := []) h hk (hanswers.trans (List.append_nil _).symm)
  exact ⟨_, hexec, rfl, rfl, rfl, rfl, rfl, rfl, toNat_cursorAfter hk, rfl, rfl, rfl, rfl, rfl, rfl⟩

end Sys2Proof.Machine
end

section
/-! The frames of a message at the receiver (41_fragmenter.md R147, R148; 42_reassembler.md R174 to R177):
one RX_STEP stores one frame's payload, and n of them complete the reassembly. -/

namespace Sys2Proof.Machine

open Sys2Proof

/-! ### One delivery (42_reassembler.md R174, R176) -/

/-- A delivery that fits RXBUF is the candidate whole. -/
theorem arrivalOfCandidate_storeCandidate {s : State} {r : List Byte}
    (hfits : r.length ≤ s.cfg.maxFrame) :
    arrivalOfCandidate (s.storeCandidate r) =
      arrival r ((s.storeCandidate r).drawn r.length) := by
  have hlen : (s.storeCandidate r).rxLen.toNat = r.length := by
    rw [storeCandidate_rxLen, List.take_of_length_le hfits, toNat_ofNat_of_le_maxFrame hfits]
  have hcand : (s.storeCandidate r).candidate = r := by
    rw [State.candidate, hlen, storeCandidate_rxBuf, List.take_of_length_le hfits]
    exact bufferBytes_writeBytes _ _ _ _ hfits
  rw [arrivalOfCandidate, hcand, hlen]

/-- An accepted frame that fits the output region is stored; the last one completes the reassembly. -/
theorem arrival_of_accept {s : State} {cand : List Byte} {h : Header} {p : List Byte}
    (hv : s.verdict cand = .accept h p) (hroom : payloadEnd s.cfg h ≤ s.rx.outCap.toNat)
    (hout : s.rx.outBase.toNat + s.rx.outCap.toNat ≤ hostSpace) (unraced : s.Unraced) :
    arrival cand s = .ok (if h.more then
      { s with
        status.lastDrop := .none
        mem := s.mem.writeBytes (s.rx.outBase.toNat + payloadStart s.cfg h) p }.finish .incomplete
    else
      { s with
        status.lastDrop := .none
        status.rxState := .complete
        rx.total := BitVec.ofNat 32 (payloadEnd s.cfg h)
        mem := s.mem.writeBytes (s.rx.outBase.toNat + payloadStart s.cfg h) p }.finish .complete) := by
  have hrange : inRange (s.rx.outBase.toNat + payloadStart s.cfg h) p.length = true := by
    rw [inRange_iff, length_of_verdict hv]
    unfold payloadEnd at hroom
    omega
  simp only [arrival, hv, if_neg (Nat.not_lt.2 hroom)]
  rw [memWrite_of_unraced (s := { s with status.lastDrop := .none }) hrange unraced]
  cases h.more <;> rfl

/-- A frame for this block, of its protocol and not its own, is accepted (42_reassembler.md R173). -/
theorem verdict_encodeFrame {s : State} {h : Header} {p : List Byte}
    (hp : p.length = h.payloadLength.toNat) (proto : h.protocolId = s.regs.protocolId)
    (src : h.src ≠ s.regs.localAddr) (dest : h.dest = s.regs.localAddr) :
    s.verdict (encodeFrame s.cfg.wireOrder h p) = .accept h p := by
  have hdec := decodeFrame_encodeFrame s.cfg.wireOrder hp []
  rw [List.append_nil] at hdec
  simp [State.verdict, classify, hdec, proto, src, dest]

/-- RX_STEP with a delivery taken into RXBUF, before its arrival. -/
def State.withDelivery (r : List Byte) (rest : List RxAnswer) (s : State) : State :=
  (State.storeCandidate r { s with
    engine := .waitRx .rxStep
    env := { s.env with rxQueue := rest, raced := [] } }).drawn r.length

/-- RX_STEP with a delivery ready stores it and runs its arrival. -/
theorem exec_rxStep_of_delivery {s : State} {r : List Byte} {rest : List RxAnswer} (ready : s.Ready)
    (armed : rxRefusal s = none) (hq : s.env.rxQueue = .delivered r :: rest)
    (hfits : r.length ≤ s.cfg.maxFrame) :
    exec .rxStep s = outcomeOf (arrival r (s.withDelivery r rest)) := by
  refine (exec_ofCmd_of_ready .rxStep ready).trans (congrArg outcomeOf ?_)
  have hrun : runCmd .rxStep (s.begin (some .rxStep)) = _ := runRxStep_of_armed armed
  rw [hrun, rxStepWait, show State.env _ = { s.env with raced := [] } from rfl]
  simp only [hq]
  exact arrivalOfCandidate_storeCandidate hfits

/-! ### The frames of a message as their receiver sees them -/

@[simp] theorem offblk_messageHeader (c : Config) (f : Fctx) (k : Nat) :
    (messageHeader c f k).offblk = k * blocksPerChunk c % 2 ^ 15 := by
  rw [Header.offblk, messageHeader, extractLsb'_offsetField, BitVec.toNat_ofNat]

@[simp] theorem more_messageHeader (c : Config) (f : Fctx) (k : Nat) :
    (messageHeader c f k).more = decide (k + 1 < messageFrames c f) :=
  getLsbD_offsetField _ _

@[simp] theorem toNat_payloadLength_messageHeader (c : Config) (f : Fctx) (k : Nat) :
    (messageHeader c f k).payloadLength.toNat = chunkLen c f k :=
  toNat_ofNat_of_le_maxFrame (Nat.le_trans (Nat.le_add_left _ 51) (chunkLen_add_header_le c f k))

/-- Where frame k's payload begins in the output region. -/
theorem payloadStart_messageHeader {c : Config} {f : Fctx} {k : Nat} (hk : k < messageFrames c f)
    (fits : tooLong c f.len.toNat f.align = false) :
    payloadStart c (messageHeader c f k) = k * (blocksPerChunk c * c.blockSize) := by
  have hoff : k * blocksPerChunk c ≤ 0x7FFF := offset_le_of_fits fits hk
  rw [payloadStart, offblk_messageHeader, Nat.mod_eq_of_lt (by omega), Nat.mul_assoc]

theorem payloadEnd_messageHeader {c : Config} {f : Fctx} {k : Nat} (hk : k < messageFrames c f)
    (fits : tooLong c f.len.toNat f.align = false) :
    payloadEnd c (messageHeader c f k) = k * (blocksPerChunk c * c.blockSize) + chunkLen c f k := by
  rw [payloadEnd, payloadStart_messageHeader hk fits, toNat_payloadLength_messageHeader]

/-- K blocks are no more than a full chunk. -/
theorem blocks_mul_le_chunkStep (c : Config) (align : Bool) :
    blocksPerChunk c * c.blockSize ≤ chunkStep c align := by
  rw [← chunkStep_div c align]
  exact Nat.div_mul_le_self _ _

/-- They are a full chunk where BLOCK_SIZE divides it (41_fragmenter.md R148). -/
theorem blocks_mul_eq_chunkStep {c : Config} {align : Bool} (h : c.blockSize ∣ chunkStep c align) :
    blocksPerChunk c * c.blockSize = chunkStep c align := by
  rw [← chunkStep_div c align]
  exact Nat.div_mul_cancel h

theorem blockSize_dvd_chunkStep (c : Config) : c.blockSize ∣ chunkStep c true :=
  Nat.dvd_mul_left _ _

/-- Frame k's payload ends within the message's length, from the output region's start. -/
theorem outputEnd_le {c : Config} {f : Fctx} {k : Nat} (hk : k < messageFrames c f) :
    k * (blocksPerChunk c * c.blockSize) + chunkLen c f k ≤ f.len.toNat :=
  Nat.le_trans (Nat.add_le_add_right (Nat.mul_le_mul_left _ (blocks_mul_le_chunkStep c f.align)) _)
    (chunkEnd_le hk)

/-- The completion total is held whole by RX_TOTAL. -/
theorem toNat_outputEnd {c : Config} {f : Fctx} {k : Nat} (hk : k < messageFrames c f) :
    (BitVec.ofNat 32 (k * (blocksPerChunk c * c.blockSize) + chunkLen c f k)).toNat =
      k * (blocksPerChunk c * c.blockSize) + chunkLen c f k := by
  rw [BitVec.toNat_ofNat, Nat.mod_eq_of_lt (Nat.lt_of_le_of_lt (outputEnd_le hk) f.len.isLt)]

/-! ### Host memory after k frames -/

/-- Host memory once the payloads of frames 0 .. k - 1 are stored from an output base on. -/
def receivedMem (c : Config) (f : Fctx) (m : Memory) (base : Nat) (dst : Memory) : Nat → Memory
  | 0 => dst
  | k + 1 => (receivedMem c f m base dst k).writeBytes (base + k * (blocksPerChunk c * c.blockSize))
      (m.hostBytes (f.base.toNat + k * chunkStep c f.align) (chunkLen c f k))

theorem readByte_receivedMem_outside {c : Config} {f : Fctx} (m : Memory) {base : Nat} (dst : Memory)
    {k a : Nat} (hk : k ≤ messageFrames c f) (ha : a < base ∨ base + f.len.toNat ≤ a) :
    (receivedMem c f m base dst k).readByte a = dst.readByte a := by
  induction k with
  | zero => rfl
  | succ k ih =>
    have hend := outputEnd_le hk
    rw [receivedMem, readByte_writeBytes_of_not_mem _ _ _ (by rw [length_hostBytes]; omega)]
    exact ih (Nat.le_of_succ_le hk)

/-- Where BLOCK_SIZE divides the chunk step, the chunks lie one after another as in the message. -/
theorem hostAt_receivedMem {c : Config} {f : Fctx} (m : Memory) (base : Nat) (dst : Memory)
    (hdvd : c.blockSize ∣ chunkStep c f.align) {k j : Nat} (hk : k ≤ messageFrames c f)
    (hj : j < k * chunkStep c f.align) (hlen : j < f.len.toNat) :
    (receivedMem c f m base dst k).hostAt (base + j) = m.hostAt (f.base.toNat + j) := by
  induction k with
  | zero => simp at hj
  | succ k ih =>
    rw [receivedMem, blocks_mul_eq_chunkStep hdvd]
    rw [Nat.succ_mul] at hj
    have hchunk : chunkLen c f k = min (chunkStep c f.align) (f.len.toNat - k * chunkStep c f.align) := rfl
    by_cases hold : j < k * chunkStep c f.align
    · rw [Memory.hostAt, readByte_writeBytes_of_not_mem _ _ _ (.inl (by omega))]
      exact ih (Nat.le_of_succ_le hk) hold
    · obtain ⟨i, rfl⟩ := Nat.exists_eq_add_of_le (Nat.not_lt.1 hold)
      have hi : i < chunkLen c f k := by omega
      have hnew := hostAt_writeBytes (receivedMem c f m base dst k) (base + k * chunkStep c f.align)
        (m.hostBytes (f.base.toNat + k * chunkStep c f.align) (chunkLen c f k))
        (x := base + k * chunkStep c f.align + i) (by omega) (by rw [length_hostBytes]; omega)
      rw [Nat.add_sub_cancel_left, getElem?_hostBytes _ _ hi, Option.some_inj] at hnew
      rw [← Nat.add_assoc, ← Nat.add_assoc, hnew]

/-! ### n RX_STEPs -/

/-- The message's frames are for the block r, and its output region has room for the message. -/
structure MayReceive (r : State) (f : Fctx) : Prop where
  resolved : r.regs.localValid = true
  dest : f.remoteAddr = r.regs.localAddr
  src : f.localAddr ≠ r.regs.localAddr
  proto : f.proto = r.regs.protocolId
  fits : tooLong r.cfg f.len.toNat f.align = false
  range : r.rx.outBase.toNat + r.rx.outCap.toNat ≤ hostSpace
  room : f.len.toNat ≤ r.rx.outCap.toNat

theorem MayReceive.verdict_messageFrame {r u : State} {f : Fctx} (h : MayReceive r f) (m : Memory)
    (k : Nat) (cfg : u.cfg = r.cfg) (regs : u.regs = r.regs) :
    u.verdict (messageFrame r.cfg f m k) = .accept (messageHeader r.cfg f k)
      (m.hostBytes (f.base.toNat + k * chunkStep r.cfg f.align) (chunkLen r.cfg f k)) := by
  rw [messageFrame_eq_encodeFrame, ← cfg]
  exact verdict_encodeFrame (by simp) (regs ▸ h.proto) (regs ▸ h.src) (regs ▸ h.dest)

/-- The block has taken frames 0 .. k - 1 of the message, and the given deliveries are left. -/
structure Received (r : State) (f : Fctx) (m : Memory) (k : Nat) (queue : List RxAnswer) (t : State) :
    Prop where
  ready : t.Ready
  awaiting : t.status.rxState = .awaitingFrame
  cfg : t.cfg = r.cfg
  regs : t.regs = r.regs
  rx : t.rx = r.rx
  queued : t.env.rxQueue = queue
  stored : t.mem = receivedMem r.cfg f m r.rx.outBase.toNat r.mem k

/-- Frame k as the transport delivers it. -/
def frameDelivery (c : Config) (f : Fctx) (m : Memory) (k : Nat) : RxAnswer :=
  .delivered (messageFrame c f m k)

/-- RX_STEP takes frame k: its payload is stored, and only the last frame completes the reassembly. -/
theorem Received.exec_rxStep {r t : State} {f : Fctx} {m : Memory} {k : Nat} {rest : List RxAnswer}
    (h : MayReceive r f) (hk : k < messageFrames r.cfg f)
    (ht : Received r f m k (frameDelivery r.cfg f m k :: rest) t) :
    exec .rxStep t = .next (if k + 1 < messageFrames r.cfg f then
      { t.withDelivery (messageFrame r.cfg f m k) rest with
        status.lastDrop := .none
        mem := receivedMem r.cfg f m r.rx.outBase.toNat r.mem (k + 1) }.finish .incomplete
    else
      { t.withDelivery (messageFrame r.cfg f m k) rest with
        status.lastDrop := .none
        status.rxState := .complete
        rx.total := BitVec.ofNat 32 (k * (blocksPerChunk r.cfg * r.cfg.blockSize) + chunkLen r.cfg f k)
        mem := receivedMem r.cfg f m r.rx.outBase.toNat r.mem (k + 1) }.finish .complete) := by
  obtain ⟨ready, awaiting, cfg, regs, rx, queued, stored⟩ := ht
  have armed : rxRefusal t = none := rxRefusal_eq_none_iff.2 ⟨regs ▸ h.resolved, awaiting⟩
  have hfits : (messageFrame r.cfg f m k).length ≤ t.cfg.maxFrame := by
    rw [length_messageFrame, cfg]
    exact chunkLen_add_header_le _ _ _
  rw [exec_rxStep_of_delivery ready armed queued hfits]
  generalize hu : t.withDelivery (messageFrame r.cfg f m k) rest = u
  have ucfg : u.cfg = r.cfg := hu ▸ cfg
  have urx : u.rx = r.rx := hu ▸ rx
  have umem : u.mem = receivedMem r.cfg f m r.rx.outBase.toNat r.mem k := hu ▸ stored
  have unraced : u.Unraced := hu ▸ rfl
  have hv := h.verdict_messageFrame m k ucfg (hu ▸ regs : u.regs = r.regs)
  have hend : payloadEnd u.cfg (messageHeader r.cfg f k) =
      k * (blocksPerChunk r.cfg * r.cfg.blockSize) + chunkLen r.cfg f k := by
    rw [ucfg, payloadEnd_messageHeader hk h.fits]
  have hroom : payloadEnd u.cfg (messageHeader r.cfg f k) ≤ u.rx.outCap.toNat := by
    rw [hend, urx]
    exact Nat.le_trans (outputEnd_le hk) h.room
  have hmem : u.mem.writeBytes (u.rx.outBase.toNat + payloadStart u.cfg (messageHeader r.cfg f k))
      (m.hostBytes (f.base.toNat + k * chunkStep r.cfg f.align) (chunkLen r.cfg f k)) =
      receivedMem r.cfg f m r.rx.outBase.toNat r.mem (k + 1) := by
    rw [ucfg, urx, umem, payloadStart_messageHeader hk h.fits, receivedMem]
  rw [arrival_of_accept hv hroom (urx ▸ h.range) unraced, hend, hmem, more_messageHeader]
  simp only [decide_eq_true_eq]
  rfl

/-- A frame that is not the last leaves the block awaiting the next. -/
theorem Received.next {r t : State} {f : Fctx} {m : Memory} {k : Nat} {rest : List RxAnswer}
    (h : MayReceive r f) (hk : k + 1 < messageFrames r.cfg f)
    (ht : Received r f m k (frameDelivery r.cfg f m k :: rest) t) :
    ∃ u, exec .rxStep t = .next u ∧ Received r f m (k + 1) rest u := by
  have hexec := ht.exec_rxStep h (Nat.lt_of_succ_lt hk)
  rw [if_pos hk] at hexec
  exact ⟨_, hexec, ⟨rfl, ht.ready.2⟩, ht.awaiting, ht.cfg, ht.regs, ht.rx, rfl, rfl⟩

/-- One more of the same instruction. -/
theorem execAll_replicate_succ {i : Instr} {k : Nat} {s t u : State}
    (hsteps : execAll (List.replicate k i) s = .next t) (hstep : exec i t = .next u) :
    execAll (List.replicate (k + 1) i) s = .next u := by
  rw [List.replicate_succ', execAll_append hsteps, execAll, hstep]
  rfl

/-- k RX_STEPs take frames 0 .. k - 1. -/
theorem execAll_rxSteps {r : State} {f : Fctx} {m : Memory} (h : MayReceive r f) (ready : r.Ready)
    (awaiting : r.status.rxState = .awaitingFrame) {k : Nat} (hk : k < messageFrames r.cfg f)
    {queue : List RxAnswer}
    (hq : r.env.rxQueue = (List.range k).map (frameDelivery r.cfg f m) ++ queue) :
    ∃ t, execAll (List.replicate k .rxStep) r = .next t ∧ Received r f m k queue t := by
  induction k generalizing queue with
  | zero => exact ⟨r, rfl, ready, awaiting, rfl, rfl, rfl, hq, rfl⟩
  | succ k ih =>
    obtain ⟨t, hsteps, ht⟩ := ih (Nat.lt_of_succ_lt hk) (hq.trans (map_range_succ_append _ _ _))
    obtain ⟨u, hstep, hu⟩ := ht.next h hk
    exact ⟨u, execAll_replicate_succ hsteps hstep, hu⟩

/-- Settles O43: the last of the n RX_STEPs completes the reassembly in the memory they filled. -/
theorem framesInOrderCompleteAndRoundTripWhereBlocksDivideTheStep :
    Obligations.FramesInOrderCompleteAndRoundTripWhereBlocksDivideTheStep := by
  intro f m r n rest ready resolved awaiting dest src proto fits range room hn hq
  have h : MayReceive r f := ⟨resolved, dest, src, proto, fits, range, room⟩
  have hpos := messageFrames_pos r.cfg f
  obtain ⟨k, rfl⟩ : ∃ k, n = k + 1 := ⟨n - 1, by omega⟩
  have hk : k < messageFrames r.cfg f := by omega
  obtain ⟨t, hsteps, ht⟩ := execAll_rxSteps (m := m) h ready awaiting hk
    (hq.trans (map_range_succ_append _ _ _))
  have hlast := ht.exec_rxStep h hk
  rw [if_neg (by omega)] at hlast
  refine ⟨_, execAll_replicate_succ hsteps hlast, rfl, rfl, rfl, toNat_outputEnd hk,
    fun hdvd => ⟨?total, ?bytes⟩, fun halign => halign ▸ blockSize_dvd_chunkStep r.cfg, ?outside⟩
  case total =>
    apply BitVec.eq_of_toNat_eq
    refine (toNat_outputEnd hk).trans ?_
    rw [blocks_mul_eq_chunkStep hdvd]
    exact chunkEnd_of_last hn
  case bytes =>
    intro j hj
    have hj' : j < (k + 1) * chunkStep r.cfg f.align := by
      have hend := chunkEnd_of_last hn
      have hchunk : chunkLen r.cfg f k ≤ chunkStep r.cfg f.align := Nat.min_le_left _ _
      rw [Nat.succ_mul]
      omega
    exact hostAt_receivedMem m _ _ hdvd hn.le hj' hj
  case outside => exact fun a ha => readByte_receivedMem_outside m _ hn.le (by omega)

end Sys2Proof.Machine
end

section
/-! The statements of 42_reassembler.md about one command: RX_INIT, RECV, RX_PROCESS and RX_STEP, and the
frames that the arrival-order filter drops. -/

namespace Sys2Proof.Machine

open Sys2Proof

/-! ### RX_INIT (42_reassembler.md R171) -/

theorem runRxInit_of_unresolved {s : State} (h : s.regs.localValid = false) :
    runRxInit s = .ok (s.raise .addressResolutionError) := by
  simp [runRxInit, h]

theorem runRxInit_of_wrapped {s : State} (hv : s.regs.localValid = true)
    (hr : inRange s.regs.outBase.toNat s.regs.outCap.toNat = false) :
    runRxInit s = .ok (s.raise .rangeError) := by
  simp [runRxInit, hv, hr]

/-- A resolved address and a region in range start a fresh reassembly, whatever the old one came to. -/
theorem runRxInit_of_inRange {s : State} (hv : s.regs.localValid = true)
    (hr : inRange s.regs.outBase.toNat s.regs.outCap.toNat = true) :
    runRxInit s = .ok ({ s with
      rx := ⟨0, s.regs.outBase, s.regs.outCap⟩
      status.lastDrop := .none
      status.rxState := .awaitingFrame }.finish .ok) := by
  simp [runRxInit, hv, hr]

/-- Settles O37: RX_INIT's body has these three outcomes, in the order of its checks. -/
theorem rxInitCreatesAFreshInstance : Obligations.RxInitCreatesAFreshInstance := by
  intro s ready
  have hexec {t : State} (h : runRxInit (s.begin (some .rxInit)) = .ok t) : exec .rxInit s = .next t :=
    exec_of_runCmd .rxInit ready h
  refine ⟨?unresolved, ?wrapped, ?fresh⟩
  case unresolved => exact fun hv => hexec (runRxInit_of_unresolved hv)
  case wrapped => exact fun hv hwrap => hexec (runRxInit_of_wrapped hv (inRange_of_wraps hwrap))
  case fresh => exact fun hv hr => hexec (runRxInit_of_inRange hv (inRange_iff.2 (.inr hr)))

/-! ### RECV (42_reassembler.md R172) -/

/-- A delivery that fits RXBUF is stored whole. -/
theorem storeCandidate_of_fits {s : State} {r : List Byte} (hfits : r.length ≤ s.cfg.maxFrame) :
    s.storeCandidate r = { s with
      rxBuf := s.rxBuf.writeBytes 0 r
      rxLen := BitVec.ofNat 32 r.length } := by
  rw [State.storeCandidate, List.take_of_length_le hfits]

theorem recvWait_of_delivery {s : State} {r : List Byte} {rest : List RxAnswer}
    (h : s.env.rxQueue = .delivered r :: rest) (hfits : r.length ≤ s.cfg.maxFrame) :
    recvWait s = { s with
      rxBuf := s.rxBuf.writeBytes 0 r
      rxLen := BitVec.ofNat 32 r.length
      env.rxQueue := rest }.finish .ok := by
  simp only [recvWait, h]
  rw [storeCandidate_of_fits (by exact hfits)]

theorem recvWait_of_error {s : State} {rest : List RxAnswer} (h : s.env.rxQueue = .err :: rest) :
    recvWait s = { s with env.rxQueue := rest }.raise .transportError := by
  simp only [recvWait, h]

theorem recvWait_of_no_answer {s : State} (h : s.env.rxQueue = []) : recvWait s = s := by
  simp only [recvWait, h]

/-- A ready block that has just begun its wait for a delivery. -/
def State.awaiting (c : RxCmd) (s : State) : State :=
  { s with engine := .waitRx c, env.raced := [] }

/-- Settles O38: RECV goes at once to its wait, which takes the answer that is ready or none. -/
theorem recvTakesOneDelivery : Obligations.RecvTakesOneDelivery := by
  intro s ready
  have hexec : exec .recv s = .next (recvWait (s.awaiting .recv)) :=
    exec_of_runCmd .recv ready rfl
  rw [hexec]
  refine ⟨?delivered, ?error, ?waits⟩
  case delivered =>
    exact fun r rest hq hfits => congrArg Host.Outcome.next (recvWait_of_delivery hq hfits)
  case error => exact fun rest hq => congrArg Host.Outcome.next (recvWait_of_error hq)
  case waits => exact fun hq => congrArg Host.Outcome.next (recvWait_of_no_answer hq)

/-! ### The checks of RX_PROCESS and RX_STEP (42_reassembler.md R174, R176) -/

theorem rxRefusal_of_unresolved {s : State} (h : s.regs.localValid = false) :
    rxRefusal s = some .addressResolutionError := by
  simp [rxRefusal, h]

theorem rxRefusal_of_not_awaiting {s : State} (hv : s.regs.localValid = true)
    (h : s.status.rxState ≠ .awaitingFrame) : rxRefusal s = some .notAwaiting := by
  simp [rxRefusal, hv, h]

/-- A failed check ends the command with its code, before any delivery is taken. -/
theorem runCmd_of_rxRefusal {c : Cmd} (hc : c = .rxProcess ∨ c = .rxStep) {s : State}
    {code : ResultCode} (h : rxRefusal s = some code) : runCmd c s = .ok (s.raise code) := by
  obtain rfl | rfl := hc
  · simp only [runCmd, runRxProcess, h]
  · simp only [runCmd, runRxStep, h]

/-- The two errors of RX_PROCESS and RX_STEP, in the order of R174. -/
theorem exec_rxErrors {c : Cmd} (hc : c = .rxProcess ∨ c = .rxStep) {s : State} (ready : s.Ready) :
    (s.regs.localValid = false → exec (Instr.ofCmd c) s =
      .next { s with result := .addressResolutionError, engine := .idle, env.raced := [] }) ∧
    (s.regs.localValid = true → s.status.rxState ≠ .awaitingFrame → exec (Instr.ofCmd c) s =
      .next { s with result := .notAwaiting, engine := .idle, env.raced := [] }) := by
  have hexec {code : ResultCode} (h : rxRefusal (s.begin (some c)) = some code) :
      exec (Instr.ofCmd c) s = .next ((s.begin (some c)).raise code) :=
    exec_of_runCmd c ready (runCmd_of_rxRefusal hc h)
  exact ⟨fun hv => hexec (rxRefusal_of_unresolved hv),
    fun hv hstate => hexec (rxRefusal_of_not_awaiting hv hstate)⟩

/-! ### One arrival, outcome by outcome (42_reassembler.md R173, R174) -/

theorem verdict_of_malformed {s : State} {cand : List Byte}
    (h : decodeFrame s.cfg.wireOrder cand = none) : s.verdict cand = .malformed := by
  simp only [State.verdict, classify, h]

/-- The filter's tests on a decodable candidate, in the order of R173. -/
theorem verdict_of_decoded {s : State} {cand : List Byte} {h : Header} {p : List Byte}
    (hd : decodeFrame s.cfg.wireOrder cand = some (h, p)) :
    s.verdict cand =
      if h.protocolId ≠ s.regs.protocolId then .drop .protocolMismatch
      else if h.src = s.regs.localAddr then .drop .loopbackFrame
      else if h.dest ≠ s.regs.localAddr then .drop .foreignDestination
      else .accept h p := by
  simp only [State.verdict, classify, hd]

theorem arrival_of_malformed {s : State} {cand : List Byte} (h : s.verdict cand = .malformed) :
    arrival cand s = .ok ({ s with status.lastDrop := .none }.finish .malformedFrame) := by
  simp only [arrival, h, State.raise]

theorem arrival_of_drop {s : State} {cand : List Byte} {reason : DropReason}
    (h : s.verdict cand = .drop reason) :
    arrival cand s = .ok ({ s with status.lastDrop := reason }.finish .incomplete) := by
  simp only [arrival, h]

theorem arrival_of_overflow {s : State} {cand : List Byte} {h : Header} {p : List Byte}
    (hv : s.verdict cand = .accept h p) (hroom : s.rx.outCap.toNat < payloadEnd s.cfg h) :
    arrival cand s = .ok ({ s with
      status.lastDrop := .none
      status.rxState := .aborted }.finish .bufferOverflow) := by
  simp only [arrival, hv, if_pos hroom, State.raise]

/-- An unraced arrival answers as R174 has it: one outcome for each way through the filter. -/
theorem arrivalAnswers_arrival {s : State} (cand : List Byte)
    (hout : s.rx.outBase.toNat + s.rx.outCap.toNat ≤ hostSpace) (unraced : s.Unraced) :
    ArrivalAnswers s cand s.env.draws (outcomeOf (arrival cand s)) := by
  unfold ArrivalAnswers
  split
  next hd => rw [arrival_of_malformed (verdict_of_malformed hd)]; rfl
  next h p hd =>
    have hv := verdict_of_decoded hd
    split_ifs at hv ⊢ with hproto hsrc hdest hroom hmore
    · rw [arrival_of_drop hv]; rfl
    · rw [arrival_of_drop hv]; rfl
    · rw [arrival_of_drop hv]; rfl
    · rw [arrival_of_overflow hv hroom]; rfl
    · rw [arrival_of_accept hv (Nat.not_lt.1 hroom) hout unraced, if_pos hmore]; rfl
    · rw [arrival_of_accept hv (Nat.not_lt.1 hroom) hout unraced, if_neg hmore]; rfl

/-! ### RX_PROCESS (42_reassembler.md R174) -/

/-- RX_PROCESS in AWAITING_FRAME, before the arrival of the candidate it has read. -/
def State.processing (s : State) : State :=
  (s.begin (some .rxProcess)).drawn s.rxLen.toNat

/-- RX_PROCESS in AWAITING_FRAME runs the arrival of the candidate in RXBUF. -/
theorem exec_rxProcess_of_armed {s : State} (ready : s.Ready) (armed : rxRefusal s = none) :
    exec .rxProcess s = outcomeOf (arrival s.candidate s.processing) := by
  refine (exec_ofCmd_of_ready .rxProcess ready).trans (congrArg outcomeOf ?_)
  have harmed : rxRefusal (s.begin (some .rxProcess)) = none := armed
  simp only [runCmd, runRxProcess, harmed]
  rfl

/-- Settles O39: the errors are the shared checks, and the candidate is RXBUF as RX_PROCESS reads it. -/
theorem rxProcessRunsOneArrival : Obligations.RxProcessRunsOneArrival := by
  intro s ready
  obtain ⟨hunresolved, hnotAwaiting⟩ := exec_rxErrors (.inl rfl) ready
  refine ⟨hunresolved, hnotAwaiting, fun hv hstate hout => ?_⟩
  refine ⟨s.candidate, s.processing.env.draws, shows_candidate s, ?_⟩
  rw [exec_rxProcess_of_armed ready (rxRefusal_eq_none_iff.2 ⟨hv, hstate⟩)]
  exact arrivalAnswers_arrival (s := s.processing) s.candidate hout rfl

/-! ### RX_STEP (42_reassembler.md R176) -/

/-- RX_STEP in AWAITING_FRAME goes at once to its wait. -/
theorem exec_rxStep_of_armed {s : State} (ready : s.Ready) (armed : rxRefusal s = none) :
    exec .rxStep s = outcomeOf (rxStepWait (s.awaiting .rxStep)) :=
  (exec_ofCmd_of_ready .rxStep ready).trans
    (congrArg outcomeOf (runRxStep_of_armed (s := s.begin (some .rxStep)) armed))

theorem rxStepWait_of_error {s : State} {rest : List RxAnswer} (h : s.env.rxQueue = .err :: rest) :
    rxStepWait s = .ok ({ s with env.rxQueue := rest }.raise .transportError) := by
  simp only [rxStepWait, h]

theorem rxStepWait_of_no_answer {s : State} (h : s.env.rxQueue = []) : rxStepWait s = .ok s := by
  simp only [rxStepWait, h]

/-- RX_STEP with a delivery that fits RXBUF holds it whole. -/
theorem withDelivery_of_fits {s : State} {r : List Byte} (hfits : r.length ≤ s.cfg.maxFrame)
    (rest : List RxAnswer) : s.withDelivery r rest = { s with
      engine := .waitRx .rxStep
      rxBuf := s.rxBuf.writeBytes 0 r
      rxLen := BitVec.ofNat 32 r.length
      env := { s.env with rxQueue := rest, draws := s.env.draws + r.length, raced := [] } } := by
  rw [State.withDelivery, storeCandidate_of_fits (by exact hfits)]
  rfl

/-- Settles O40: the errors are the shared checks, and the wait takes the answer that is ready or none; a
delivery is RXBUF whole, so its arrival is the delivery's own. -/
theorem rxStepRunsTheArrivalOfOneDelivery : Obligations.RxStepRunsTheArrivalOfOneDelivery := by
  intro s ready
  obtain ⟨hunresolved, hnotAwaiting⟩ := exec_rxErrors (.inr rfl) ready
  refine ⟨hunresolved, hnotAwaiting, fun hv hstate hout => ?_⟩
  have armed : rxRefusal s = none := rxRefusal_eq_none_iff.2 ⟨hv, hstate⟩
  have hexec := exec_rxStep_of_armed ready armed
  refine ⟨?delivered, ?error, ?waits⟩
  case delivered =>
    intro r rest hq hfits
    have harr := arrivalAnswers_arrival (s := s.withDelivery r rest) r hout rfl
    rw [← exec_rxStep_of_delivery ready armed hq hfits, withDelivery_of_fits hfits] at harr
    exact ⟨_, harr⟩
  case error =>
    exact fun rest hq => hexec.trans (congrArg outcomeOf (rxStepWait_of_error (s := s.awaiting .rxStep) hq))
  case waits =>
    exact fun hq => hexec.trans (congrArg outcomeOf (rxStepWait_of_no_answer (s := s.awaiting .rxStep) hq))

/-! ### Dropped frames (42_reassembler.md R177) -/

/-- RXBUF with all RXLEN bytes written shows one candidate only. -/
theorem State.Shows.eq_of_written {s : State} {c cand : List Byte} (h : s.Shows c)
    (hlen : cand.length = s.rxLen.toNat) (hfits : cand.length ≤ s.cfg.maxFrame)
    (hwritten : ∀ i (hi : i < cand.length), s.rxBuf.readByte i = some cand[i]) : c = cand := by
  obtain ⟨hc, hshown⟩ := h
  refine List.ext_getElem (hc.trans hlen.symm) fun i hi hi' => ?_
  have hbyte := hshown i cand[i] (hc ▸ hi) (Nat.lt_of_lt_of_le hi' hfits) (hwritten i hi')
  exact (List.getElem?_eq_some_iff.1 hbyte).2

/-- A decodable candidate that fails one of the filter's three tests is dropped, for a reason. -/
theorem verdict_of_filtered {s : State} {cand : List Byte} {h : Header} {p : List Byte}
    (hd : decodeFrame s.cfg.wireOrder cand = some (h, p))
    (hf : h.protocolId ≠ s.regs.protocolId ∨ h.dest ≠ s.regs.localAddr ∨ h.src = s.regs.localAddr) :
    ∃ reason : DropReason, reason ≠ .none ∧ s.verdict cand = .drop reason := by
  have hv := verdict_of_decoded hd
  split_ifs at hv with hproto hsrc hdest
  · exact ⟨_, by decide, hv⟩
  · exact ⟨_, by decide, hv⟩
  · exact ⟨_, by decide, hv⟩
  · obtain h | h | h := hf
    · exact absurd h hproto
    · exact absurd h hdest
    · exact absurd h hsrc

/-- Settles O42: the candidate that RX_PROCESS reads is the one written, and its arrival is a drop, which
reaches no output region. -/
theorem droppedFramesLeaveTheReassemblerAlone :
    Obligations.DroppedFramesLeaveTheReassemblerAlone := by
  intro s cand h p ready hv hstate hlen hfits hwritten hd hf
  obtain ⟨reason, hreason, hdrop⟩ := verdict_of_filtered (s := s.processing) hd hf
  refine ⟨reason, s.processing.env.draws, hreason, ?_⟩
  rw [exec_rxProcess_of_armed ready (rxRefusal_eq_none_iff.2 ⟨hv, hstate⟩),
    (shows_candidate s).eq_of_written hlen hfits hwritten, arrival_of_drop hdrop]
  rfl

end Sys2Proof.Machine
end

section
/-! The statements of 43_host_access.md about CMD, STATUS and the bus: what a command word does while BUSY = 1
or an outside move is next, the accesses allowed while BUSY = 1, and the index of a bus offset. -/

namespace Sys2Proof.Machine

open Sys2Proof

/-! ### CMD (43_host_access.md R203, R204) -/

@[simp] theorem writesCmd_ofCmd (c : Cmd) : writesCmd (Instr.ofCmd c) = true := by cases c <;> rfl

@[simp] theorem commandIssued_ofCmd (c : Cmd) : commandIssued (Instr.ofCmd c) = some c := by
  cases c <;> rfl

/-- Settles O14: index 0 is CMD, and what `writeCmd` does with a command's word is the command. -/
theorem aCommandWordWrittenToCmdIsTheCommand :
    Obligations.ACommandWordWrittenToCmdIsTheCommand := by
  intro s c
  rw [exec_regWrite_zero, writeCmd_word]

/-- An instruction that writes CMD is lost while BUSY = 1. -/
theorem exec_of_writesCmd_of_busy {i : Instr} (hi : writesCmd i = true) {s : State}
    (hb : s.busy = true) : exec i s = .next { s with status.cmdOvr := true } := by
  rw [exec_of_writesCmd hi, if_pos hb]

/-- Settles O15: the ten commands and the writes of index 0 are the instructions that write CMD. -/
theorem commandsWrittenWhileBusyAreLost : Obligations.CommandsWrittenWhileBusyAreLost := fun _ hb =>
  ⟨fun c => exec_of_writesCmd_of_busy (writesCmd_ofCmd c) hb,
    fun _ => exec_of_writesCmd_of_busy rfl hb⟩

/-- With an outside move next, a block that is given a command only begins it. -/
theorem exec_ofCmd_of_overlapped (c : Cmd) {s : State} (idle : s.engine = .idle)
    (ho : s.overlapped = true) : exec (Instr.ofCmd c) s = .next (s.begin (some c)) := by
  simp [exec_of_writesCmd, busy_eq_false_iff.2 idle, ho]

/-- Settles O16: the state an overlapped command leaves is the one from which a ready block's command makes
the engine's move. -/
theorem overlappedCommandsKeepBusy : Obligations.OverlappedCommandsKeepBusy := by
  refine ⟨?begun, ?resumed⟩
  case begun =>
    exact fun s c idle ho => ⟨s.begin (some c), exec_ofCmd_of_overlapped c idle ho, rfl, rfl⟩
  case resumed => exact fun s c ready => (exec_ofCmd_of_ready c ready).symm

/-! ### STATUS (43_host_access.md R201, R202, R205) -/

theorem exec_regWrite_one (data : Word) (s : State) :
    exec (.regWrite 1 data) s = .next (s.writeStatus data) := rfl

/-- Settles O17: index 1 is STATUS, whatever BUSY is, and its write looks at data[1] only. -/
theorem statusWritesClearOnlyTheOverrunFlag : Obligations.StatusWritesClearOnlyTheOverrunFlag := by
  intro s data
  rw [exec_regWrite_one]
  refine ⟨?clears, ?keeps⟩
  case clears =>
    intro h
    rw [State.writeStatus, if_pos h]
  case keeps =>
    intro h
    rw [State.writeStatus, if_neg (by rw [h]; decide)]

/-- Settles O18: no index but 0 and 1 names CMD or STATUS, and a STATUS write is the same at any time. -/
theorem writesWhileBusyChangeOnlyTheOverrunFlag :
    Obligations.WritesWhileBusyChangeOnlyTheOverrunFlag := by
  intro s index data hb
  refine ⟨fun hcmd hstatus => ?_, statusWritesClearOnlyTheOverrunFlag s data⟩
  exact regWrite_of_busy hb (mt eq_zero_of_targetOf_cmd hcmd)
    (mt eq_one_of_targetOf_status hstatus) data

/-- Of STATUS read while BUSY = 1, bits 0 and 1 are not drawn. -/
theorem getLsbD_busyStatusWord (s : State) :
    s.busyStatusWord.getLsbD 0 = true ∧ s.busyStatusWord.getLsbD 1 = s.status.cmdOvr := by
  simp only [State.busyStatusWord, BitVec.getLsbD_append]
  simp

/-- Settles O19: a read while BUSY = 1 leaves its value and a draw, and at index 1 the value is STATUS. -/
theorem readsWhileBusyShowBusyAndTheOverrunFlag :
    Obligations.ReadsWhileBusyShowBusyAndTheOverrunFlag := by
  intro s index hb
  refine ⟨_, _, regRead_of_busy hb index, ?_⟩
  rintro rfl
  exact getLsbD_busyStatusWord s

/-! ### The bus (43_host_access.md R200, 20_memory.md R77) -/

theorem offsetOfAddress_of_inside {n : Nat} (h : n < 2 ^ 14) :
    offsetOfAddress (Config.blockBase + n) = some (BitVec.ofNat 14 n) := by
  rw [offsetOfAddress, if_pos (by omega), Nat.add_sub_cancel_left]

theorem offsetOfAddress_of_outside {addr : Nat}
    (h : addr < Config.blockBase ∨ Config.blockBase + 0x4000 ≤ addr) :
    offsetOfAddress addr = none := if_neg (by omega)

/-- The word index of a bus offset is the offset divided by 4. -/
theorem indexOfOffset_ofNat (k : Nat) {b : Nat} (hb : b < 4) :
    indexOfOffset (BitVec.ofNat 14 (4 * k + b)) = BitVec.ofNat 12 k := by
  apply BitVec.eq_of_toNat_eq
  rw [indexOfOffset, BitVec.extractLsb'_toNat, Nat.shiftRight_eq_div_pow]
  simp only [BitVec.toNat_ofNat]
  omega

/-- Settles O25: an access inside the 16 KiB is the transaction of `indexOfOffset`, and one outside has no
offset. -/
theorem busOffsetLowBitsAreIgnored : Obligations.BusOffsetLowBitsAreIgnored := by
  refine ⟨?inside, ?outside⟩
  case inside =>
    intro s k b data hk hb
    simp only [occur, hostAccess, offsetOfAddress_of_inside (show 4 * k + b < 2 ^ 14 by omega),
      indexOfOffset_ofNat k hb, and_self]
  case outside =>
    intro s addr w h
    simp only [occur, hostAccess, offsetOfAddress_of_outside h]

end Sys2Proof.Machine
end

section
/-! Register writes (43_host_access.md R202): the bits a write keeps of each register of 10_state.md R21 to
R33, and what the other registers read as afterwards. -/

namespace Sys2Proof.Machine

open Sys2Proof

/-! ### Words under a mask -/

/-- The n low bits of a word are the word under the mask of n ones. -/
theorem ofNat_toNat_mod_two_pow {n : Nat} (h : n ≤ 32) (w : Word) :
    BitVec.ofNat 32 (w.toNat % 2 ^ n) = w &&& BitVec.ofNat 32 (2 ^ n - 1) := by
  have hlt : 2 ^ n - 1 < 2 ^ 32 :=
    Nat.lt_of_lt_of_le (Nat.sub_lt (Nat.two_pow_pos n) Nat.one_pos)
      (Nat.pow_le_pow_right Nat.two_pos h)
  apply BitVec.eq_of_toNat_eq
  rw [BitVec.toNat_ofNat, BitVec.toNat_and, BitVec.toNat_ofNat, Nat.mod_eq_of_lt hlt,
    Nat.and_two_pow_sub_one_eq_mod, Nat.mod_eq_of_lt (Nat.lt_of_le_of_lt (Nat.mod_le _ _) w.isLt)]

/-- A field of n bits reads back as the n low bits written. -/
theorem setWidth_setWidth_word {n : Nat} (h : n ≤ 32) (w : Word) :
    (w.setWidth n).setWidth 32 = w &&& BitVec.ofNat 32 (2 ^ n - 1) := by
  rw [← ofNat_toNat_mod_two_pow h, ← BitVec.toNat_setWidth, BitVec.ofNat_toNat]

/-- CTRL keeps LOCAL_VALID and ALIGN (10_state.md R27). -/
theorem ctrlWord_writeCtrl (r : HostRegs) (data : Word) :
    (r.writeCtrl data).ctrlWord = data &&& 0x3 := by
  rw [show (0x3 : Word) = BitVec.ofNat 32 (2 ^ 2 - 1) from rfl,
    ← setWidth_setWidth_word (n := 2) (by decide)]
  apply BitVec.eq_of_getLsbD_eq
  rintro (_ | _ | i) hi
  all_goals
    simp only [HostRegs.ctrlWord, HostRegs.writeCtrl, BitVec.getLsbD_append,
      BitVec.getLsbD_setWidth]
    simp

/-! ### The words of an address (10_state.md R22) -/

theorem Addr.length_take_bytes (a : Addr) {j : Nat} (hj : j < 5) :
    (a.bytes.take (4 * j)).length = 4 * j := by
  rw [List.length_take, Addr.length_bytes]
  omega

/-- Writing word j of an address replaces its bytes 4j .. 4j + 3, those past byte 17 being dropped. -/
theorem Addr.bytes_setWord (a : Addr) {j : Nat} (hj : j < 5) (w : Word) :
    (a.setWord j w).bytes =
      (a.bytes.take (4 * j) ++ leBytes 4 w.toNat ++ a.bytes.drop (4 * j + 4)).take 18 := by
  apply List.take_append_of_le_length
  simp only [List.length_append, Addr.length_take_bytes a hj, length_leBytes, List.length_drop,
    Addr.length_bytes, addrBytes]
  omega

/-- The bytes outside a written word stay. -/
theorem Addr.getElem?_setWord_of_outside (a : Addr) {i j : Nat} (hj : j < 5)
    (hi : i < 4 * j ∨ 4 * j + 4 ≤ i) (w : Word) : (a.setWord j w).bytes[i]? = a.bytes[i]? := by
  rcases Nat.lt_or_ge i 18 with hin | hpast
  · rw [Addr.bytes_setWord a hj, List.getElem?_take_of_lt hin]
    obtain hlo | hhi := hi
    · rw [List.append_assoc, List.getElem?_append_left (by rwa [Addr.length_take_bytes a hj]),
        List.getElem?_take_of_lt hlo]
    · have hlen : (a.bytes.take (4 * j) ++ leBytes 4 w.toNat).length = 4 * j + 4 := by
        rw [List.length_append, Addr.length_take_bytes a hj, length_leBytes]
      rw [List.getElem?_append_right (by rwa [hlen]), hlen, List.getElem?_drop,
        Nat.add_sub_of_le hhi]
  · rw [List.getElem?_eq_none (by simpa using hpast), List.getElem?_eq_none (by simpa using hpast)]

theorem getElem?_slice (s : List Byte) (lo hi i : Nat) :
    (slice s lo hi)[i]? = if i < hi - lo then s[lo + i]? else none := by
  rw [slice, List.getElem?_take, List.getElem?_drop]

/-- The other words of an address stay. -/
theorem Addr.word_setWord_of_ne (a : Addr) {j k : Nat} (hj : j < 5) (h : k ≠ j) (w : Word) :
    (a.setWord j w).word k = a.word k := by
  have hslice : slice (a.setWord j w).bytes (4 * k) (4 * k + 4)
      = slice a.bytes (4 * k) (4 * k + 4) := by
    apply List.ext_getElem?
    intro i
    rw [getElem?_slice, getElem?_slice]
    split_ifs with hi
    · exact Addr.getElem?_setWord_of_outside a hj (by omega) w
    · rfl
  rw [Addr.word, Addr.word, hslice]

/-- The bytes a write of word j leaves there. -/
theorem Addr.slice_setWord (a : Addr) {j : Nat} (hj : j < 5) (w : Word) :
    slice (a.setWord j w).bytes (4 * j) (4 * j + 4) = (leBytes 4 w.toNat).take (18 - 4 * j) := by
  rw [Addr.bytes_setWord a hj, slice, List.drop_take, List.append_assoc,
    List.drop_left' (Addr.length_take_bytes a hj), Nat.add_sub_cancel_left, List.take_take,
    Nat.min_comm, ← List.take_take, List.take_left' (length_leBytes ..)]

/-- The bits a write of word j of an address keeps: its bytes up to byte 17. -/
def addressMask (j : Nat) : Option Word :=
  if j < 4 then some 0xFFFFFFFF else if j = 4 then some 0xFFFF else none

theorem lt_of_addressMask {j : Nat} {mask : Word} (h : addressMask j = some mask) : j < 5 := by
  unfold addressMask at h
  split_ifs at h <;> omega

theorem Addr.word_setWord (a : Addr) {j : Nat} {mask : Word} (h : addressMask j = some mask)
    (w : Word) : (a.setWord j w).word j = w &&& mask := by
  rw [Addr.word, Addr.slice_setWord a (lt_of_addressMask h)]
  unfold addressMask at h
  split_ifs at h with hfull hlast
  · cases h
    rw [List.take_of_length_le (by rw [length_leBytes]; omega), leNat_leBytes]
    exact ofNat_toNat_mod_two_pow (n := 32) (Nat.le_refl _) w
  · cases h
    subst hlast
    rw [show (leBytes 4 w.toNat).take (18 - 4 * 4) = leBytes 2 w.toNat from rfl, leNat_leBytes]
    exact ofNat_toNat_mod_two_pow (n := 16) (by decide) w

/-! ### Writes and reads of targets -/

/-- The bits of data a write of a target keeps, of the RW registers but RXLEN and the RXBUF window. -/
def Target.writeMask : Target → Option Word
  | .ctrl => some 0x3
  | .frameType | .hdrType => some 0xFF
  | .protocolId | .hdrProto | .hdrFragid | .hdrOffset => some 0xFFFF
  | .localAddr j | .remoteAddr j | .hdrDest j | .hdrSrc j => addressMask j
  | .msgBase | .msgLen | .outBase | .outCap | .hdrPlen | .hdrCksum => some 0xFFFFFFFF
  | _ => none

/-- A written register reads back as the bits it keeps. -/
theorem readTarget_writeTarget {t : Target} {mask : Word} (h : t.writeMask = some mask) (s : State)
    (data : Word) : (s.writeTarget data t).readTarget t = data &&& mask := by
  cases t with
  | localAddr j | remoteAddr j | hdrDest j | hdrSrc j => exact Addr.word_setWord _ h data
  | ctrl =>
    cases h
    exact ctrlWord_writeCtrl s.regs data
  | frameType | hdrType =>
    cases h
    exact setWidth_setWidth_word (n := 8) (by decide) data
  | protocolId | hdrProto | hdrFragid | hdrOffset =>
    cases h
    exact setWidth_setWidth_word (n := 16) (by decide) data
  | msgBase | msgLen | outBase | outCap | hdrPlen | hdrCksum =>
    cases h
    exact BitVec.and_allOnes.symm
  | _ => cases h

/-- A write of a register leaves what every other target reads as: a target of another field reads that
field, and of the written address only the written word changes. -/
theorem readTarget_writeTarget_of_ne {t u : Target} {mask : Word} (h : t.writeMask = some mask)
    (hne : u ≠ t) (s : State) (data : Word) :
    (s.writeTarget data t).readTarget u = s.readTarget u := by
  cases t with
  | localAddr j | remoteAddr j | hdrDest j | hdrSrc j =>
    cases u <;> try rfl
    exact Addr.word_setWord_of_ne _ (lt_of_addressMask h) (mt (congrArg _) hne) data
  | ctrl | frameType | hdrType | protocolId | hdrProto | hdrFragid | hdrOffset | msgBase | msgLen
  | outBase | outCap | hdrPlen | hdrCksum =>
    cases u <;> try rfl
    exact absurd rfl hne
  | _ => cases h

/-- A write of a register changes the host-programmed and the header registers only. -/
theorem writeTarget_regs_hdr {t : Target} {mask : Word} (h : t.writeMask = some mask) (s : State)
    (data : Word) : s.writeTarget data t =
      { s with regs := (s.writeTarget data t).regs, hdr := (s.writeTarget data t).hdr } := by
  cases t with
  | ctrl | frameType | hdrType | protocolId | hdrProto | hdrFragid | hdrOffset | msgBase | msgLen
  | outBase | outCap | hdrPlen | hdrCksum | localAddr | remoteAddr | hdrDest | hdrSrc => rfl
  | _ => cases h

/-! ### The map's offsets -/

theorem writeMask_of_writableMasks : ∀ row ∈ writableMasks,
    row.1 ∈ namedOffsets ∧ (targetOf (indexAt row.1)).writeMask = some row.2 := by decide

/-- Two named offsets name two targets. -/
theorem nodup_targets_namedOffsets :
    (namedOffsets.map (fun o => targetOf (indexAt o))).Nodup := by decide

theorem targetOf_ne_of_namedOffsets {o o' : Nat} (ho : o ∈ namedOffsets) (ho' : o' ∈ namedOffsets)
    (hne : o ≠ o') : targetOf (indexAt o) ≠ targetOf (indexAt o') :=
  mt (List.inj_on_of_nodup_map nodup_targets_namedOffsets ho ho') hne

/-- The targets of the read-only registers. -/
def readOnlyTargets : List Target :=
  [.result, .fragId, .fragCursor, .fragOffblk, .txLen, .rxTotal, .rxOutBase, .rxOutCap]

theorem targetOf_readOnlyOffsets :
    readOnlyOffsets.map (fun o => targetOf (indexAt o)) = readOnlyTargets := by decide

/-- A read-only register ignores a write (10_state.md R20). -/
theorem writeTarget_of_readOnly {t : Target} (ht : t ∈ readOnlyTargets) (s : State) (data : Word) :
    s.writeTarget data t = s := by
  cases t with
  | result | fragId | fragCursor | fragOffblk | txLen | rxTotal | rxOutBase | rxOutCap => rfl
  | _ => simp [readOnlyTargets] at ht

/-- Settles O22: a row of the map is what its target reads as, so the write of one named offset is the write
of one target, which `readTarget_writeTarget` and `readTarget_writeTarget_of_ne` read back. -/
theorem writtenRegistersReadBackUnderTheirMask :
    Obligations.WrittenRegistersReadBackUnderTheirMask := by
  intro s data idle
  refine ⟨?writable, ?readOnly⟩
  case writable =>
    intro offset mask hrow
    obtain ⟨hnamed, hmask⟩ := writeMask_of_writableMasks _ hrow
    have hcmd : targetOf (indexAt offset) ≠ .cmd := fun hc => by
      simp [hc, Target.writeMask] at hmask
    obtain ⟨-, heng, -⟩ := writeTarget_frame s data (targetOf (indexAt offset))
    have idle' := heng.trans idle
    refine ⟨_, regWrite_of_idle idle rfl hcmd data, ?same, ?others,
      writeTarget_regs_hdr hmask s data⟩
    case same =>
      rw [registerRows_eq idle', ← readTarget_writeTarget hmask s data]
      exact List.mem_map_of_mem hnamed
    case others =>
      rw [registerRows_eq idle', registerRows_eq idle]
      intro row hmem hne
      obtain ⟨o, ho, rfl⟩ := List.mem_map.1 hmem
      rw [← readTarget_writeTarget_of_ne hmask (targetOf_ne_of_namedOffsets ho hnamed hne) s data]
      exact List.mem_map_of_mem ho
  case readOnly =>
    intro offset ho
    have hmem : targetOf (indexAt offset) ∈ readOnlyTargets :=
      targetOf_readOnlyOffsets ▸ List.mem_map_of_mem ho
    rw [regWrite_of_idle idle rfl (ne_of_mem_of_not_mem hmem (by decide)),
      writeTarget_of_readOnly hmem]

end Sys2Proof.Machine
end

section
/-! The statement of 60_exceptions.md about the commands that use the local address. -/

namespace Sys2Proof.Machine

open Sys2Proof

/-- Settles O41: the address is the first check of each of the five commands, shared by FRAG_START and SEND
and by RX_PROCESS and RX_STEP. -/
theorem commandsThatUseTheLocalAddressNeedIt :
    Obligations.CommandsThatUseTheLocalAddressNeedIt := by
  intro s c hc ready hv
  simp only [List.mem_cons, List.not_mem_nil, or_false] at hc
  obtain hfrag | hsend | rfl | hprocess | hstep := hc
  · exact (exec_startErrors (.inl hfrag) ready).1 hv
  · exact (exec_startErrors (.inr hsend) ready).1 hv
  · exact (rxInitCreatesAFreshInstance s ready).1 hv
  · exact (exec_rxErrors (.inl hprocess) ready).1 hv
  · exact (exec_rxErrors (.inr hstep) ready).1 hv

end Sys2Proof.Machine
end

section
/-! Reset (70_reset_and_hazards.md): the values of R252, and what a reset of a running command leaves outside
the block (R251, R254). -/

namespace Sys2Proof.Machine

open Sys2Proof

/-- Settles O2: the reset state is written out field by field. -/
theorem resetHoldsTheListedValues : Obligations.ResetHoldsTheListedValues := by
  unfold Obligations.ResetHoldsTheListedValues
  and_intros <;> rfl

/-! ### The write under way -/

/-- RXBUF's candidate right after a delivery is the delivery, whatever the draws. -/
theorem candidate_storeCandidate (s : State) (r : List Byte) :
    (s.storeCandidate r).candidate = r.take s.cfg.maxFrame := by
  have hfits : (r.take s.cfg.maxFrame).length ≤ s.cfg.maxFrame := List.length_take_le _ _
  rw [State.candidate, storeCandidate_rxLen, toNat_ofNat_of_le_maxFrame hfits]
  exact bufferBytes_writeBytes _ _ _ _ hfits

/-- The write of an RX_STEP stands in its delivery, so draws do not change it. -/
theorem writeUnderWay_drawn {s : State} (n : Nat) (h : s.engine ≠ .run (some .rxProcess)) :
    writeUnderWay (s.drawn n) = writeUnderWay s := by
  simp only [writeUnderWay, drawn_engine, drawn_cfg, if_neg h, candidate_storeCandidate]
  rfl

/-- A write of an arrival lies in the output region (42_reassembler.md R174). -/
theorem writeOfArrival_region {cand : List Byte} {s : State} {w : Nat × List Byte}
    (h : writeOfArrival cand s = some w) :
    s.rx.outBase.toNat ≤ w.1 ∧ w.1 + w.2.length ≤ s.rx.outBase.toNat + s.rx.outCap.toNat := by
  unfold writeOfArrival at h
  split at h
  · rename_i hd p hv
    split at h
    · cases h
    · rename_i hcap
      cases h
      have hlen := length_of_verdict hv
      unfold payloadEnd at hcap
      dsimp only
      omega
  · cases h

theorem writeUnderWay_region {s : State} {w : Nat × List Byte} (h : writeUnderWay s = some w) :
    s.rx.outBase.toNat ≤ w.1 ∧ w.1 + w.2.length ≤ s.rx.outBase.toNat + s.rx.outCap.toNat := by
  obtain ⟨-, ⟨-, harr⟩ | ⟨-, r, rest, -, harr⟩⟩ := writeUnderWay_cases h
  · exact writeOfArrival_region harr
  · exact writeOfArrival_region harr

/-! ### Host memory after the reset of a running command -/

/-- What a reset may make of host memory: the bytes outside the output region stay, only RX_PROCESS and
RX_STEP have a write to cut, and a cut write nothing has raced with is a prefix (R254). -/
structure CutMemory (s : State) (m : Memory) : Prop where
  outside : ∀ a, s.OutsideOutput a → m.readByte a = s.mem.readByte a
  writers : s.engine.op ≠ some .rxProcess → s.engine.op ≠ some .rxStep → m = s.mem
  cut : s.env.raced = [] → m = s.mem ∨
    ∃ a p k, writeUnderWay s = some (a, p) ∧ k ≤ p.length ∧ m = s.mem.writeBytes a (p.take k)

theorem CutMemory.refl (s : State) : CutMemory s s.mem where
  outside _ _ := rfl
  writers _ _ := rfl
  cut _ := .inl rfl

/-- A MemWrite in range succeeds, raced or not. -/
theorem memWrite_of_inRange {a : Nat} {p : List Byte} (h : inRange a p.length = true) (s : State) :
    ∃ t, s.memWrite a p = .ok t := by
  unfold State.memWrite
  rw [if_pos h]
  split <;> exact ⟨_, rfl⟩

/-- A write inside a region in range is in range. -/
theorem inRange_of_region {base len a n : Nat} (h : inRange base len = true) (hlo : base ≤ a)
    (hhi : a + n ≤ base + len) : inRange a n = true := by
  rw [inRange_iff] at h ⊢
  omega

theorem freeUpTo_le (n bound : Nat) : freeUpTo n bound ≤ bound :=
  Nat.le_of_lt_succ (Nat.mod_lt _ bound.succ_pos)

/-- Cutting the write under way succeeds when the output region is in range. -/
theorem cutWrite_ok {s : State} (hout : inRange s.rx.outBase.toNat s.rx.outCap.toNat = true) :
    ∃ (m : Memory) (n : Nat), cutWrite s = .ok { s with mem := m, env.draws := n } ∧
      CutMemory s m := by
  unfold cutWrite
  split
  · exact ⟨s.mem, s.env.draws, rfl, .refl s⟩
  · rename_i w hw
    obtain ⟨hlo, hhi⟩ := writeUnderWay_region hw
    have hrange (k : Nat) : inRange w.1 (w.2.take k).length = true :=
      inRange_of_region hout hlo ((Nat.add_le_add_left (List.length_take_le' k w.2) _).trans hhi)
    obtain ⟨t, ht⟩ := memWrite_of_inRange
      (hrange (freeUpTo (s.env.draws + s.rxLen.toNat) w.2.length)) (s.drawn (s.rxLen.toNat + 1))
    obtain ⟨m, n, rfl⟩ := memWrite_frame ht
    refine ⟨m, n, ht, ?outside, ?writers, ?cut⟩
    case outside =>
      intro a ha
      have hlen := List.length_take_le' (freeUpTo (s.env.draws + s.rxLen.toNat) w.2.length) w.2
      exact readByte_memWrite_of_not_mem ht (by unfold State.OutsideOutput at ha; omega)
    case writers => exact fun hp hs => (op_of_writeUnderWay hw).elim (absurd · hp) (absurd · hs)
    case cut =>
      exact fun hr => .inr ⟨w.1, w.2, _, hw, freeUpTo_le _ _, mem_memWrite_of_unraced ht hr⟩

/-! ### The transport after the reset of a running command -/

/-- Every frame offered stays at its place, and one without an answer is abandoned (R251). -/
def LogAbandoned (log log' : List TxRecord) : Prop :=
  log'.length = log.length ∧ ∀ (k : Nat) (r : TxRecord), log[k]? = some r →
    if r.fate = .pending then ∃ taken, log'[k]? = some { r with fate := .abandoned taken }
    else log'[k]? = some r

theorem LogAbandoned.of_settled {log : List TxRecord} (h : Settled log) : LogAbandoned log log :=
  ⟨rfl, fun _ r hr => by rwa [if_neg (h r (List.mem_of_getElem? hr))]⟩

/-- The frame in flight, the one offered last, is abandoned. -/
theorem LogAbandoned.of_inFlight {log : List TxRecord} (taken : Bool)
    (offered : log.head?.map (·.fate) = some .pending) (h : ∀ r ∈ log.tail, r.fate ≠ .pending) :
    LogAbandoned log (settleLast (.abandoned taken) log) := by
  cases log with
  | nil => cases offered
  | cons r log =>
    refine ⟨rfl, fun k x hx => ?_⟩
    cases k with
    | zero =>
      cases hx
      rw [if_pos (Option.some.inj offered)]
      exact ⟨taken, rfl⟩
    | succ k =>
      rw [if_neg (h x (List.mem_of_getElem? hx))]
      exact hx

/-- An RxRecv may be under way only in RECV and RX_STEP. -/
theorem op_of_recvUnderWay {s : State} (h : recvUnderWay s = true) :
    s.engine.op = some .recv ∨ s.engine.op = some .rxStep := by
  unfold recvUnderWay at h
  split at h
  · rename_i op eng
    cases op <;> simp [eng, Engine.op]
  · rename_i eng
    exact .inl (congrArg Engine.op eng)
  · rename_i eng
    exact .inr (congrArg Engine.op eng)
  · cases h

/-- The transport's deliveries stay, or the first is lost with its RxRecv (R251). -/
def DeliveriesAfterReset (s : State) (queue : List RxAnswer) : Prop :=
  queue = s.env.rxQueue ∨ ((s.engine.op = some .recv ∨ s.engine.op = some .rxStep) ∧
    ∃ d, s.env.rxQueue = d :: queue)

/-! ### The reset event -/

/-- Abandoning the running command succeeds; it changes host memory, the log of frames, the deliveries and
the draws only. -/
theorem State.Inv.abandonCommand_ok {s : State} (h : s.Inv) :
    ∃ (m : Memory) (log : List TxRecord) (queue : List RxAnswer) (n : Nat),
      abandonCommand s = .ok { s with
        mem := m
        env := { s.env with txLog := log, rxQueue := queue, draws := n } } ∧
      CutMemory s m ∧ LogAbandoned s.env.txLog log ∧ DeliveriesAfterReset s queue := by
  unfold abandonCommand
  split
  · rename_i op eng
    have hp : s.engine.phase = .waitTx := congrArg Engine.phase eng
    exact ⟨s.mem, _, s.env.rxQueue, _, rfl, .refl s,
      .of_inFlight _ (h.waitTx_offered hp) h.one_inFlight, .inl rfl⟩
  · rename_i hnot
    have hlog : LogAbandoned s.env.txLog s.env.txLog :=
      .of_settled (h.settled fun hp => (phase_eq_waitTx_iff.1 hp).elim hnot)
    split
    · rename_i hrecv
      have hop := op_of_recvUnderWay hrecv
      split
      · exact ⟨s.mem, _, s.env.rxQueue, s.env.draws, rfl, .refl s, hlog, .inl rfl⟩
      · rename_i d rest hq
        split
        · obtain ⟨m, n, hcut, hm⟩ := cutWrite_ok (s := s.drawn 1) h.output_inRange
          have hne : s.engine ≠ .run (some .rxProcess) := fun eng => by simp [eng, Engine.op] at hop
          rw [hcut]
          exact ⟨m, _, rest, n, rfl,
            { hm with cut := fun hr => writeUnderWay_drawn 1 hne ▸ hm.cut hr }, hlog,
            .inr ⟨hop, d, hq⟩⟩
        · exact ⟨s.mem, _, s.env.rxQueue, _, rfl, .refl s, hlog, .inl rfl⟩
    · obtain ⟨m, n, hcut, hm⟩ := cutWrite_ok h.output_inRange
      exact ⟨m, _, s.env.rxQueue, n, hcut, hm, hlog, .inl rfl⟩

/-- Settles O5: a reset abandons the running command and puts the block's reset state over what that leaves
of host memory and the surroundings. -/
theorem resetEventResetsTheBlockOnly : Obligations.ResetEventResetsTheBlockOnly := by
  intro s hs
  obtain ⟨m, log, queue, n, habandon, hmem, hlog, hqueue⟩ := hs.abandonCommand_ok
  obtain ⟨hlength, hfates⟩ := hlog
  refine ⟨State.resetWith s.cfg m
      { s.env with txLog := log, rxQueue := queue, raced := [], draws := n },
    ?reset, rfl, rfl, hlength, hfates, hqueue, hmem.outside, hmem.writers, hmem.cut⟩
  case reset => simp only [occur, resetBlock, habandon]

end Sys2Proof.Machine
end

section
/-! The instruction encoding (30_encoding.md section 2): decoding and encoding are inverse. Bytes that decode are
the four of a command's word or the six of a 45-bit transaction, and both directions follow from that. -/

namespace Sys2Proof.Machine

open Sys2Proof

/-! ### The decoder -/

/-- Bytes are those of their number, held in a word wide enough for it. -/
theorem leBytes_ofNat_leNat {bytes : List Byte} {m n : Nat} (hlen : bytes.length = n)
    (hlt : leNat bytes < 2 ^ m) : leBytes n (BitVec.ofNat m (leNat bytes)).toNat = bytes := by
  rw [BitVec.toNat_ofNat, Nat.mod_eq_of_lt hlt, ← hlen, leBytes_leNat]

theorem decode_transaction (t : BitVec 45) :
    decode (leBytes 6 t.toNat) = .ok (decodeTransaction t) := by
  have hnat : leNat (leBytes 6 t.toNat) = t.toNat :=
    leNat_leBytes_of_lt (t.isLt.trans (by decide))
  simp [decode, hnat, t.isLt]

/-- The bytes that decode, and to what. -/
theorem decode_eq_ok_iff {bytes : List Byte} {i : Instr} :
    decode bytes = .ok i ↔
      (∃ c : Cmd, bytes = leBytes 4 c.word.toNat ∧ i = Instr.ofCmd c) ∨
      (∃ t : BitVec 45, bytes = leBytes 6 t.toNat ∧ i = decodeTransaction t) := by
  constructor
  · intro h
    unfold decode at h
    split at h
    · rename_i hlen
      split at h
      · rename_i c hc
        cases h
        have hlt : leNat bytes < 2 ^ 32 := by simpa [hlen] using leNat_lt bytes
        exact .inl ⟨c, eq_word_of_commandOf hc ▸ (leBytes_ofNat_leNat hlen hlt).symm, rfl⟩
      · cases h
    · split at h
      · rename_i hlen
        split at h
        · rename_i hlt
          cases h
          exact .inr ⟨_, (leBytes_ofNat_leNat hlen hlt).symm, rfl⟩
        · cases h
      · cases h
  · rintro (⟨c, rfl, rfl⟩ | ⟨t, rfl, rfl⟩)
    · exact decode_of_decodeTableWord (decodeTableWord_command c)
    · exact decode_transaction t

/-! ### The encoder -/

theorem encode_ofCmd (c : Cmd) : encode (Instr.ofCmd c) = leBytes 4 c.word.toNat := by
  cases c <;> rfl

theorem decode_encode_ofCmd (c : Cmd) : decode (encode (Instr.ofCmd c)) = .ok (Instr.ofCmd c) :=
  decode_eq_ok_iff.2 (.inl ⟨c, encode_ofCmd c, rfl⟩)

/-! ### The fields of a transaction (30_encoding.md R102) -/

/-- Every 45-bit pattern is a direction bit, an index and a data word. -/
theorem exists_eq_transactionBits (t : BitVec 45) :
    ∃ dir index data, t = transactionBits dir index data := by
  refine ⟨(t.extractLsb' 32 13).extractLsb' 12 1, (t.extractLsb' 32 13).extractLsb' 0 12,
    t.extractLsb' 0 32, ?_⟩
  rw [transactionBits, BitVec.extractLsb'_append_extractLsb' (w := 1) (len := 12)]
  exact (BitVec.extractLsb'_append_extractLsb' (w := 13) (len := 32)).symm

theorem decodeTransaction_transactionBits (dir : BitVec 1) (index : BitVec 12) (data : Word) :
    decodeTransaction (transactionBits dir index data) =
      if dir.getLsbD 0 then .regWrite index data else .regRead index := by
  have hdir : (transactionBits dir index data).getLsbD 44 = dir.getLsbD 0 := by
    simp only [transactionBits, BitVec.getLsbD_append, Nat.reduceLT, Nat.reduceSub, if_false]
  have hindex : (transactionBits dir index data).extractLsb' 32 12 = index := by
    rw [transactionBits, BitVec.extractLsb'_append_eq_of_le (Nat.le_refl 32)]
    exact BitVec.extractLsb'_append_eq_right
  have hdata : (transactionBits dir index data).extractLsb' 0 32 = data :=
    BitVec.extractLsb'_append_eq_right
  rw [decodeTransaction, hdir, hindex, hdata]

/-- Direction and index stand above the four bytes of the data lane. -/
theorem transactionBits_div (dir : BitVec 1) (index : BitVec 12) (data : Word) :
    (transactionBits dir index data).toNat / 256 ^ 4 = (dir ++ index).toNat := by
  rw [transactionBits, BitVec.toNat_append, ← Nat.shiftLeft_add_eq_or_of_lt data.isLt,
    Nat.shiftLeft_eq]
  omega

theorem drop_leBytes (k n v : Nat) : (leBytes (n + k) v).drop k = leBytes n (v / 256 ^ k) := by
  induction k generalizing v with
  | zero => simp
  | succ k ih =>
    rw [← Nat.add_assoc, leBytes, List.drop_succ_cons, ih, Nat.div_div_eq_div_mul, pow_succ']

/-- The bytes above the data lane do not depend on the data. -/
theorem drop_leBytes_transactionBits (dir : BitVec 1) (index : BitVec 12) (data data' : Word) :
    (leBytes 6 (transactionBits dir index data).toNat).drop 4 =
      (leBytes 6 (transactionBits dir index data').toNat).drop 4 := by
  rw [drop_leBytes 4 2, drop_leBytes 4 2, transactionBits_div, transactionBits_div]

/-! ### The two directions -/

/-- Settles O8: a command's bytes are those of its word, and a transaction's pattern has the fields it was
joined from. -/
theorem decodeOfEncodeIsTheInstruction : Obligations.DecodeOfEncodeIsTheInstruction := by
  intro i _
  cases i with
  | encode => exact decode_encode_ofCmd .encode
  | decode => exact decode_encode_ofCmd .decode
  | fragStart => exact decode_encode_ofCmd .fragStart
  | fragNext => exact decode_encode_ofCmd .fragNext
  | xmit => exact decode_encode_ofCmd .xmit
  | send => exact decode_encode_ofCmd .send
  | rxInit => exact decode_encode_ofCmd .rxInit
  | recv => exact decode_encode_ofCmd .recv
  | rxProcess => exact decode_encode_ofCmd .rxProcess
  | rxStep => exact decode_encode_ofCmd .rxStep
  | regRead index =>
    exact decode_eq_ok_iff.2 (.inr ⟨_, rfl, (decodeTransaction_transactionBits 0#1 index 0).symm⟩)
  | regWrite index data =>
    exact decode_eq_ok_iff.2
      (.inr ⟨_, rfl, (decodeTransaction_transactionBits 1#1 index data).symm⟩)

/-- Settles O9: bytes that decode are a command's word or a transaction; of a read the data lane alone is free. -/
theorem decodedBytesAreTheEncoding : Obligations.DecodedBytesAreTheEncoding := by
  intro bytes i h
  obtain ⟨c, rfl, rfl⟩ | ⟨t, rfl, rfl⟩ := decode_eq_ok_iff.1 h
  · exact .inr (encode_ofCmd c).symm
  · obtain ⟨dir, index, data, rfl⟩ := exists_eq_transactionBits t
    rw [decodeTransaction_transactionBits]
    obtain rfl | rfl := BitVec.eq_zero_or_eq_one dir
    · exact .inl ⟨index, rfl, length_leBytes 6 _, drop_leBytes_transactionBits 0#1 index data 0⟩
    · exact .inr rfl

end Sys2Proof.Machine
end

section
/-! Host memory as data (20_memory.md R71): the canonical form. -/

namespace Sys2Proof.Machine

open Sys2Proof

/-- In canonical form the bytes that read are the listed entries. -/
theorem readByte_eq_some_iff {m : Memory} (h : m.wf = true) {a : Nat} {v : Byte} :
    m.readByte a = some v ↔ (a, v) ∈ m := by
  rw [wf_iff] at h
  induction m with
  | nil => simp
  | cons c m ih =>
    obtain ⟨k, w⟩ := c
    obtain ⟨hlt, hm⟩ := List.pairwise_cons.1 h
    rw [Memory.readByte, List.mem_cons]
    split
    · rename_i hk
      subst hk
      have hnot : (k, v) ∉ m := fun hv => Nat.lt_irrefl k (hlt _ hv)
      simp [hnot, eq_comm]
    · rename_i hk
      simp [ih hm, Ne.symm hk]

/-- Settles O53: both memories list the entries that read, in rising order of address. -/
theorem equalReadsMakeEqualMemories : Obligations.EqualReadsMakeEqualMemories := by
  intro m k hm hk hread
  have hirrefl : Std.Irrefl (fun x y : Host.Cell => x.1 < y.1) := ⟨fun x => Nat.lt_irrefl x.1⟩
  have hantisymm : Std.Antisymm (fun x y : Host.Cell => x.1 < y.1) :=
    ⟨fun _ _ h h' => absurd h' (Nat.lt_asymm h)⟩
  refine (wf_iff.1 hm).eq_of_mem_iff (wf_iff.1 hk) fun ⟨a, v⟩ => ?_
  rw [← readByte_eq_some_iff hm, hread, readByte_eq_some_iff hk]

end Sys2Proof.Machine
end

section
/-! The invariant after reset (70_reset_and_hazards.md section 1). -/

namespace Sys2Proof.Machine

open Sys2Proof

/-- Settles O3: the reset state is a reset block with empty host memory and no frame offered. -/
theorem resetMeetsTheInvariant : Obligations.ResetMeetsTheInvariant :=
  inv_resetWith rfl rfl nofun rfl

end Sys2Proof.Machine
end
